-- ==== Sys2Proof/Word.lean ====
section
/-! DEFINITION. The words of the LRPC stream framer: bytes, 16-bit header fields, the 10-bit event word, the 48-bit wire
header, the six-byte window, the one-bit framer state and one sample of the input port (00_scope.md R6, R8). -/

namespace Sys2Proof

/-- A stream byte, `BYTE_W` = 8 bits, unsigned (R6, R8). -/
abbrev Byte := BitVec 8

/-- A header field, a CRC value or a count: `TYPE_W` = `SIZE_W` = `CRCF_W` = 16 bits, unsigned (R6, R8). -/
abbrev U16 := BitVec 16

/-- The event word `ev[9:0]` (R36). -/
abbrev EventWord := BitVec 10

/-- The wire header `h[47:0]`; `h[47]` is the first bit of the first byte on the wire (R38). -/
abbrev HeaderWord := BitVec 48

/-- The framer state `st` (R11): exactly two states. Its numeric coding is given by `Machine.stCode`. -/
inductive FrameState where
  | idle
  | collecting
  deriving DecidableEq, Repr

/-- Six bytes, `w0` the oldest and `w5` the newest (R12): the rolling window `win[0..5]`, and any candidate for it. -/
structure Window where
  w0 : Byte
  w1 : Byte
  w2 : Byte
  w3 : Byte
  w4 : Byte
  w5 : Byte
  deriving DecidableEq, Repr

/-- What the input port presents in one step: the reset pin and the event word (R35, R79). -/
structure PortSample where
  rst : Bool
  ev  : EventWord
  deriving DecidableEq, Repr

end Sys2Proof
end

