-- ==== Sys2Proof/Machine/Operands.lean ====
section
/-! DEFINITION. The fields of the event word (R36), of a 16-bit value (R8) and of the wire header (R13, R38, R39), and the words
built back from them. Byte order is decided here and nowhere else: big-endian (R24). -/

namespace Sys2Proof.Machine

/-- `v[15:8]` (R8). -/
def hiByte (v : U16) : Byte := v.extractLsb' 8 8

/-- `v[7:0]` (R8). -/
def loByte (v : U16) : Byte := v.extractLsb' 0 8

/-- `{hi, lo}`, the more significant byte first (R8, R13, R24). -/
def joinBytes (hi lo : Byte) : U16 := hi ++ lo

/-- `type_of(w) = {w[0], w[1]}` (R13). -/
def typeField (w : Window) : U16 := joinBytes w.w0 w.w1

/-- `size_of(w) = {w[2], w[3]}` (R13). -/
def sizeField (w : Window) : U16 := joinBytes w.w2 w.w3

/-- `crc_of(w) = {w[4], w[5]}` (R13). -/
def crcField (w : Window) : U16 := joinBytes w.w4 w.w5

/-- `w[0..4)`, the bytes the CRC covers, in wire order (R25, R39). -/
def crcSpan (w : Window) : List Byte := [w.w0, w.w1, w.w2, w.w3]

/-- The six bytes in wire order, oldest first (R12, R38). -/
def windowBytes (w : Window) : List Byte := [w.w0, w.w1, w.w2, w.w3, w.w4, w.w5]

/-- The window whose three header fields are given (R13 read backwards, R38). -/
def windowOf (ftype size crc : U16) : Window :=
  ⟨hiByte ftype, loByte ftype, hiByte size, loByte size, hiByte crc, loByte crc⟩

/-- The shift of an Idle byte step: `win[1..6) ‖ [b]` (R62). -/
def shiftIn (w : Window) (b : Byte) : Window := ⟨w.w1, w.w2, w.w3, w.w4, w.w5, b⟩

/-- A window of six zero bytes (R21). -/
def zeroWindow : Window := ⟨0, 0, 0, 0, 0, 0⟩

/-- The window read as the header word `h[47:0]`: `w[0]` is `h[47:40]` (R38). -/
def headerWordOf (w : Window) : HeaderWord := w.w0 ++ w.w1 ++ w.w2 ++ w.w3 ++ w.w4 ++ w.w5

/-- The six bytes of a header word in wire order (R38). -/
def windowOfWord (h : HeaderWord) : Window :=
  ⟨h.extractLsb' 40 8, h.extractLsb' 32 8, h.extractLsb' 24 8, h.extractLsb' 16 8, h.extractLsb' 8 8, h.extractLsb' 0 8⟩

/-- `ev[9]` (R36). -/
def evClosed (ev : EventWord) : Bool := ev.getLsbD 9

/-- `ev[8]` (R36). -/
def evValid (ev : EventWord) : Bool := ev.getLsbD 8

/-- `ev[7:0]` (R36). -/
def evData (ev : EventWord) : Byte := ev.extractLsb' 0 8

/-- `ev[8:0]`, the bits a `CLOSED` word does not use (R36, R37). -/
def evBelowClosed (ev : EventWord) : BitVec 9 := ev.extractLsb' 0 9

/-- The event word `{closed, valid, data}` (R36). -/
def eventWord (closed valid : Bool) (data : Byte) : EventWord := BitVec.ofBool closed ++ BitVec.ofBool valid ++ data

/-- The `CLOSED` word over the nine bits it does not use (R36). -/
def closedWord (below : BitVec 9) : EventWord := BitVec.ofBool true ++ below

/-- The canonical port sample of `BYTE(b)`: event word `0x100 | b`, pin low (R36, R45). -/
def byteSample (b : Byte) : PortSample := ⟨false, eventWord false true b⟩

/-- The canonical port sample of `NO_DATA`: event word `0x000`, pin low (R36, R45). -/
def noDataSample : PortSample := ⟨false, eventWord false false 0⟩

/-- The canonical port sample of `CLOSED`: event word `0x200`, pin low (R36, R45). -/
def closedSample : PortSample := ⟨false, eventWord true false 0⟩

/-- The port sample of `RESET`: pin high; the event word of that step is ignored (R45, R83). -/
def resetSample : PortSample := ⟨true, eventWord false false 0⟩

end Sys2Proof.Machine
end

