-- ==== Sys2Proof/Machine/Crc.lean ====
section
/-! DEFINITION. The CRC-16 of the header prefix and the header validity test (40_crc16.md R48 to R54), and `mk_header` (R40).
Pure functions: no state read, none written (R53). The polynomial and the initial value stand here, once (R6, U8). -/

namespace Sys2Proof.Machine

/-- `CRC_INIT` (R48). -/
def crcInit : U16 := 0xFFFF#16

/-- `CRC_POLY` (R48). -/
def crcPoly : U16 := 0x1021#16

/-- `crc_bit_step(acc, d)` (R49): the bit shifted out is lost, not rotated. -/
def crcBitStep (acc : U16) (d : Bool) : U16 :=
  let top := acc.getLsbD 15
  let sh := acc <<< 1
  if top ^^ d then sh ^^^ crcPoly else sh

/-- `crc_byte_step(acc, b)` (R50): the bits of `b` from `b[7]` down to `b[0]`. -/
def crcByteStep (acc : U16) (b : Byte) : U16 :=
  [7, 6, 5, 4, 3, 2, 1, 0].foldl (fun a i => crcBitStep a (b.getLsbD i)) acc

/-- The loop of R51 from any accumulator: bytes in list order. -/
def crcFrom (acc : U16) (l : List Byte) : U16 := l.foldl crcByteStep acc

/-- `crc16(l)` (R51). -/
def crc16 (l : List Byte) : U16 := crcFrom crcInit l

/-- `crc16_0(l)`: R51 with the initial value `0x0000` (R58). -/
def crc16Zero (l : List Byte) : U16 := crcFrom 0#16 l

/-- `crc16(w[0..4)) == crc_of(w)`, on all 16 bits: the second half of R54. -/
def crcMatches (w : Window) : Bool := crc16 (crcSpan w) == crcField w

/-- `hdr_valid(w)` (R54): the size takes no part. -/
def hdrValid (w : Window) : Bool := typeField w != 0#16 && crcMatches w

/-- The six bytes `[t ‖ s ‖ crc16(t ‖ s)]` (R40), for any `t`. -/
def builtHeader (t s : U16) : Window :=
  windowOf t s (crc16 [hiByte t, loByte t, hiByte s, loByte s])

/-- `mk_header(t, s)` (R40): not defined for type 0 (93_implementation_defined.md Part 1: the one `refuse`). -/
def mkHeader (t s : U16) : Option Window := if t = 0#16 then none else some (builtHeader t s)

end Sys2Proof.Machine
end

