-- ==== Sys2Proof/Syntax.lean ====
section
/-! DEFINITION. The operations of the block, one constructor per row of spec/opcode_table.json (R35, R47). The four EV and PIN
operations are the events of the input port; the three WH operations are what a shifted window spells in an Idle byte step. -/

namespace Sys2Proof

/-- One operation of the block. Don't-care bits are operands, so that no bit of a word is lost; no meaning uses them (U11). -/
inductive Instr where
  /-- `RESET`, pin `rst` = 1 (R83). -/
  | reset
  /-- `CLOSED`, `ev[9]` = 1; `ignored` is `ev[8:0]` (R82). -/
  | closed (ignored : BitVec 9)
  /-- `BYTE(b)` taken while `st == IDLE` (R61). -/
  | byteIdle (b : Byte)
  /-- `BYTE(b)` taken while `st == COLLECTING` (R70). -/
  | byteCollecting (b : Byte)
  /-- `NO_DATA`, `ev[9:8]` = 00; `ignored` is `ev[7:0]` (R81). -/
  | noData (ignored : BitVec 8)
  /-- `HDR.ZERO`: a candidate header of type 0, whatever its size and crc (R63). -/
  | hdrZero (size crc : U16)
  /-- `HDR.BADCRC`: a candidate header of nonzero type whose crc field does not match (R64). -/
  | hdrBadCrc (ftype size crc : U16)
  /-- `HDR`: a valid header (R65). -/
  | hdr (ftype size crc : U16)
  deriving DecidableEq, Repr

end Sys2Proof
end

