-- ==== Sys2Proof/WellFormed.lean ====
section
/-! DEFINITION. When an operation is well formed: the operands stand in the class its row of the opcode table names
(R43: every 48-bit pattern falls in exactly one of the three header classes). -/

namespace Sys2Proof

/-- The checks of R43: `HDR.BADCRC` has a nonzero type and a wrong crc, `HDR` is valid. The other rows take every operand. -/
def Instr.wellFormed : Instr → Bool
  | .reset => true
  | .closed _ => true
  | .byteIdle _ => true
  | .byteCollecting _ => true
  | .noData _ => true
  | .hdrZero _ _ => true
  | .hdrBadCrc t z c => t != 0#16 && !Machine.crcMatches (Machine.windowOf t z c)
  | .hdr t z c => Machine.hdrValid (Machine.windowOf t z c)

end Sys2Proof
end

