-- ==== Sys2Proof/Decode.lean ====
section
/-! DEFINITION. The decoder at both levels (R35): event words and the reset pin (R36, R37, R79), and wire headers (R38, R43);
the encoder written from the same tables; and the opcode table's own numbering of its words. -/

namespace Sys2Proof

/-- A word in one of the three formats of the opcode table: PIN (1 bit), EV (10 bits), WH (48 bits) (R35). -/
inductive CodeWord where
  | pin (rst : BitVec 1)
  | ev (w : EventWord)
  | wh (h : HeaderWord)
  deriving DecidableEq, Repr

/-- Why bits are no operation. -/
inductive DecodeReject where
  /-- the pin is low: no `RESET`; the event word of the same step decides (R79) -/
  | pinLow
  /-- a header is looked for in `IDLE` only: in `COLLECTING` no byte is tested (R44, R76) -/
  | notSearching
  /-- fewer than six bytes are no header (R38) -/
  | shortHeader
  /-- bits above the format's width are set -/
  | wordTooWide
  /-- no format has this width -/
  | unknownWidth
  deriving DecidableEq, Repr

/-- The event word, total over all 1024 words: `closed` wins over `valid` (R36, R37); `st` selects the row of a byte (R44). -/
def decodeEvent (st : FrameState) (w : EventWord) : Instr :=
  if Machine.evClosed w then .closed (Machine.evBelowClosed w)
  else if Machine.evValid w then
    match st with
    | .idle => .byteIdle (Machine.evData w)
    | .collecting => .byteCollecting (Machine.evData w)
  else .noData (Machine.evData w)

/-- The event of one step: pin `rst` first, then the event word (R79). -/
def decodeSample (st : FrameState) (p : PortSample) : Instr :=
  if p.rst then .reset else decodeEvent st p.ev

/-- The class of a candidate header (R43): type 0 first, whatever the crc (R63). -/
def decodeHeader (w : Window) : Instr :=
  if Machine.typeField w = 0#16 then .hdrZero (Machine.sizeField w) (Machine.crcField w)
  else if Machine.crcMatches w then .hdr (Machine.typeField w) (Machine.sizeField w) (Machine.crcField w)
  else .hdrBadCrc (Machine.typeField w) (Machine.sizeField w) (Machine.crcField w)

/-- A header from a byte list, the first byte first on the wire, with the rest of the list (R38). -/
def decodeHeaderBytes : List Byte → Except DecodeReject (Instr × List Byte)
  | b0 :: b1 :: b2 :: b3 :: b4 :: b5 :: rest => .ok (decodeHeader ⟨b0, b1, b2, b3, b4, b5⟩, rest)
  | _ => .error .shortHeader

/-- A word of any format, in framer state `st`. -/
def decode (st : FrameState) : CodeWord → Except DecodeReject Instr
  | .pin r => if r = 1 then .ok .reset else .error .pinLow
  | .ev w => .ok (decodeEvent st w)
  | .wh h =>
    match st with
    | .idle => .ok (decodeHeader (Machine.windowOfWord h))
    | .collecting => .error .notSearching

/-- The framer state in which a row is selected (opcode_table.json, "condition"); a header row needs an Idle byte step. -/
def Instr.selectedIn (st : FrameState) : Instr → Bool
  | .byteCollecting _ => st == .collecting
  | .byteIdle _ => st == .idle
  | .hdrZero _ _ => st == .idle
  | .hdrBadCrc _ _ _ => st == .idle
  | .hdr _ _ _ => st == .idle
  | .reset => true
  | .closed _ => true
  | .noData _ => true

/-- The word of an operation (R36, R38; pin high for `RESET`). -/
def encode : Instr → CodeWord
  | .reset => .pin 1
  | .closed below => .ev (Machine.closedWord below)
  | .byteIdle b => .ev (Machine.eventWord false true b)
  | .byteCollecting b => .ev (Machine.eventWord false true b)
  | .noData d => .ev (Machine.eventWord false false d)
  | .hdrZero z c => .wh (Machine.headerWordOf (Machine.windowOf 0#16 z c))
  | .hdrBadCrc t z c => .wh (Machine.headerWordOf (Machine.windowOf t z c))
  | .hdr t z c => .wh (Machine.headerWordOf (Machine.windowOf t z c))

/-- The opcode table's words by their width: PIN is 1 bit, EV 10, WH 48, each possibly rounded up to whole bytes. Bit 0 of the
number is bit 0 of the format, so `h[47:40]`, the first byte on the wire, is the most significant (R38; log entry 8). -/
def tableCodeWord (nbits w : Nat) : Except DecodeReject CodeWord :=
  if nbits ≤ 8 then
    if w < 2 then .ok (.pin (BitVec.ofNat 1 w)) else .error .wordTooWide
  else if nbits ≤ 16 then
    if w < 1024 then .ok (.ev (BitVec.ofNat 10 w)) else .error .wordTooWide
  else if nbits = 48 then
    if w < 281474976710656 then .ok (.wh (BitVec.ofNat 48 w)) else .error .wordTooWide
  else .error .unknownWidth

/-- The operation the decoder reads from a word numbered as opcode_table.json numbers it, in the framer state `IDLE` that reset
leaves. The word of `BYTE.COLLECTING` is the word of `BYTE.IDLE`; only `st` tells them apart (R44, R47; log entry 8). -/
def decodeTableWord (nbits w : Nat) : Option Instr :=
  match tableCodeWord nbits w with
  | .ok c =>
    match decode .idle c with
    | .ok i => some i
    | .error _ => none
  | .error _ => none

end Sys2Proof
end

