-- ==== Sys2Proof/Config.lean ====
section
/-! DEFINITION. What an implementation fixes and the spec leaves open: the buffer capacity a build is made with (R6,
92_eei_decisions.md D4, OPEN) and the contents of payload cells nothing has written (R16, 93_implementation_defined.md U2,
`any value`). Both are free: no body, no value can be proved of them beyond the range. -/

namespace Sys2Proof.Config

/-- `MAX_PAYLOAD - 1` of the build that `State.reset` stands for: any number below 65535 (R6; log entry 3). -/
opaque maxPayloadLessOne : Fin 65535

/-- `MAX_PAYLOAD` of the build that `State.reset` stands for: some value from 1 to 65535 (R6, R17; log entry 3). -/
def maxPayload : U16 := BitVec.ofNat 16 (maxPayloadLessOne.val + 1)

/-- What a cell of `pbuf` that nothing has written holds (R16, U2: any value; log entry 4). -/
opaque unwrittenCell : Nat → Byte

end Sys2Proof.Config
end

