-- ==== Sys2Proof/Machine/State.lean ====
section
/-! DEFINITION. The state of the block (10_state.md R10 to R17), the output of one step (R80, R87), the reasons a step can stop,
and the state right after reset (R21). -/

namespace Sys2Proof.Machine

/-- Cells of the payload buffer that have been written, as (index, byte) pairs with strictly rising indices (R16). -/
abbrev Memory := List Host.Cell

/-- The canonical form: indices strictly rise, so that equal buffers are equal lists. An unlisted cell has no value of its own. -/
abbrev Memory.wf (m : Memory) : Prop := m.Pairwise (fun a b => a.1 < b.1)

/-- The log code of a step (R87); its number is `LogCode.code`. -/
inductive LogCode where
  | noStep
  | rejZeroType
  | rejBadCrc
  | hdrAccept
  | collect
  | abortOversize
  | frameDone
  deriving DecidableEq, Repr

/-- The dispatch record `(type, size, payload)` (R78). -/
structure DispatchRecord where
  ftype   : U16
  size    : U16
  payload : List Byte
  deriving DecidableEq, Repr

/-- The output of one step (R80). -/
structure Output where
  log      : LogCode
  dispatch : Option DispatchRecord
  deriving DecidableEq, Repr

/-- The state. The first six fields are the architectural state of R10; `maxPayload` is the build parameter (R17), which no event
writes (log entry 3); `input` and `out` are the model's own: the events not yet sampled (log entry 1) and the output of the step
that led here, which no step reads (R19; log entry 2). -/
structure State where
  st         : FrameState
  win        : Window
  hdrType    : U16
  hdrSize    : U16
  cnt        : U16
  pbuf       : Memory
  maxPayload : U16
  input      : List PortSample
  out        : Output
  deriving DecidableEq, Repr

/-- Why the machine stops: there is no reason. The step is total and never fails (R79; 93_implementation_defined.md Part 1: nothing
in the block is treated as a fault). -/
inductive Fault where
  deriving DecidableEq, Repr

/-- Why an instruction has no meaning. -/
inductive Refusal where
  /-- Raised by an arm of `exec` whose instruction is not modelled; no arm raises it here. Safe. -/
  | notModelled (mnemonic : String)
  deriving DecidableEq, Repr

/-- The output before any step: nothing logged, nothing dispatched (log entry 2). -/
def Output.quiet : Output := ⟨.noStep, none⟩

/-- The state right after reset (R21, R83, R102). `MAX_PAYLOAD` is whatever the build fixed (R17); no event is pending. -/
def State.reset : State where
  st := .idle
  win := zeroWindow
  hdrType := 0#16
  hdrSize := 0#16
  cnt := 0#16
  pbuf := []
  maxPayload := Config.maxPayload
  input := []
  out := Output.quiet

end Sys2Proof.Machine
end

