-- ==== Sys2Proof/Machine/Flags.lean ====
section
/-! DEFINITION. The block has no status flags (R19). What a step decides by, and the numbers of its one-step codes: the oversize
test (R72), the completion test (R73), the log code's number (R87) and the coding of `st` (R11). -/

namespace Sys2Proof.Machine

/-- `hdr_size > MAX_PAYLOAD`, unsigned and strict (R72). -/
def oversize (s : State) : Bool := s.maxPayload.toNat < s.hdrSize.toNat

/-- `cnt' >= hdr_size`, unsigned, with the count after the append (R73). -/
def frameComplete (s : State) : Bool := s.hdrSize.toNat ≤ s.cnt.toNat

/-- The numbers of R87; 7 is never produced. -/
def LogCode.code : LogCode → BitVec 3
  | .noStep => 0
  | .rejZeroType => 1
  | .rejBadCrc => 2
  | .hdrAccept => 3
  | .collect => 4
  | .abortOversize => 5
  | .frameDone => 6

/-- The frame-sync errors among the codes: 1, 2 and 5 (R87). -/
def LogCode.isError : LogCode → Bool
  | .rejZeroType => true
  | .rejBadCrc => true
  | .abortOversize => true
  | .noStep => false
  | .hdrAccept => false
  | .collect => false
  | .frameDone => false

/-- `IDLE` = 0, `COLLECTING` = 1 (R11). -/
def stCode : FrameState → BitVec 1
  | .idle => 0
  | .collecting => 1

end Sys2Proof.Machine
end

