-- ==== Sys2Proof/Machine/Ops.lean ====
section
/-! DEFINITION. The named operations over the state: cells of the payload buffer (R9, R16, R27), the output of a step (R80), the
retained header (R14), the frame position (R18), the dispatch trigger (R95) and the sampling of the input port (R79).
The block takes no exception and has no return (R87, R96); `deliverFrame` is its one outward event, said once. -/

namespace Sys2Proof.Machine

/-- One outcome of an operation of this machine. -/
abbrev StepOutcome := Host.Outcome State Fault Refusal

/-- The written byte at index `i`, if that cell is listed. -/
def Memory.lookup (m : Memory) (i : Nat) : Option Byte := (m.find? (fun c => c.1 == i)).map Prod.snd

/-- `MemRead(i, 1)` (R9): a cell nothing has written holds a free value (R16, U2; log entry 4). -/
def Memory.read (m : Memory) (i : Nat) : Byte := (m.lookup i).getD (Config.unwrittenCell i)

/-- `MemWrite(i, 1, b)` on the list (R9), keeping the canonical form. -/
def Memory.write (m : Memory) (i : Nat) (b : Byte) : Memory :=
  match m with
  | [] => [(i, b)]
  | c :: rest =>
    if i < c.1 then (i, b) :: c :: rest
    else if i = c.1 then (i, b) :: rest
    else c :: Memory.write rest i b

/-- `MemWrite(i, 1, b)` on a buffer of `cap` cells (R9, R16): an index that is none of the cells has nothing to write
(log entry 5; R22 I3: no run from reset comes to one). -/
def Memory.storeCell (m : Memory) (cap i : Nat) (b : Byte) : Memory := if i < cap then m.write i b else m

/-- `raise <log>` with `dispatch <- d` (R9, R80): the step's output, replacing the one before. -/
def emit (log : LogCode) (d : Option DispatchRecord) (s : State) : State := { s with out := ⟨log, d⟩ }

/-- `win <- w` (R62). -/
def setWindow (w : Window) (s : State) : State := { s with win := w }

/-- The header is retained, the payload buffer is empty, and collecting begins (R65). Cells keep old bytes (R20, N8). -/
def retainHeader (t z : U16) (s : State) : State :=
  { s with st := .collecting, hdrType := t, hdrSize := z, cnt := 0#16 }

/-- `st <- IDLE` (R72, R73). -/
def returnToIdle (s : State) : State := { s with st := .idle }

/-- Every piece of architectural state at its reset value (R21, R83). `MAX_PAYLOAD` is not state; the events still to come are
the source's. -/
def clearState (s : State) : State :=
  { s with st := .idle, win := zeroWindow, hdrType := 0#16, hdrSize := 0#16, cnt := 0#16, pbuf := [] }

/-- The append of R71, unconditional: `pbuf[cnt] <- b`, then `cnt <- cnt + 1` on 16 bits (R52). -/
def appendByte (b : Byte) (s : State) : State :=
  { s with pbuf := s.pbuf.storeCell s.maxPayload.toNat s.cnt.toNat b, cnt := s.cnt + 1#16 }

/-- `pbuf[0..n)` in index order (R78). -/
def payloadPrefix (m : Memory) (n : Nat) : List Byte := (List.range n).map m.read

/-- The dispatch record of the frame held: `(hdr_type, hdr_size, pbuf[0..hdr_size))` (R73, R78). -/
def heldFrame (s : State) : DispatchRecord := ⟨s.hdrType, s.hdrSize, payloadPrefix s.pbuf s.hdrSize.toNat⟩

/-- The dispatch trigger (R73, R93, R95): present the frame, return to `IDLE`, leave the window, the header and the count. -/
def deliverFrame (s : State) : State := emit .frameDone (some (heldFrame s)) (returnToIdle s)

/-- The oversize abort (R72): return to `IDLE` with no dispatch. -/
def abortFrame (s : State) : State := emit .abortOversize none (returnToIdle s)

/-- What the port presents next: the first event not yet sampled. When the source offers nothing more, no byte is available, and
that is `NO_DATA` (R81, R84; log entry 1). -/
def nextSample (s : State) : PortSample := s.input.headD noDataSample

/-- The event sampled is consumed, once (R23, R29). -/
def consume (s : State) : State := { s with input := s.input.tail }

/-- Put one event in front of the events to come. -/
def offer (p : PortSample) (s : State) : State := { s with input := p :: s.input }

/-- Make the window such that the header `w` is complete when its sixth byte is shifted in, and offer that byte (R35, R62). -/
def offerHeader (w : Window) (s : State) : State :=
  offer (byteSample w.w5) { s with st := .idle, win := ⟨s.win.w0, w.w0, w.w1, w.w2, w.w3, w.w4⟩ }

end Sys2Proof.Machine
end

