-- ==== Sys2Proof/Machine/Collecting.lean ====
section
/-! DEFINITION. `BYTE` in `COLLECTING` (42_collecting_dispatch.md R70). -/

namespace Sys2Proof.Machine

/-- `step_collecting(b)` (R70): append (R71), then the oversize test (R72), then the completion test (R73). -/
def execByteCollecting (b : Byte) (s : State) : StepOutcome :=
  let s1 := appendByte b s
  if oversize s1 then .next (abortFrame s1)
  else if frameComplete s1 then .next (deliverFrame s1)
  else .next (emit .collect none s1)

end Sys2Proof.Machine
end

