-- ==== Sys2Proof/Machine/Idle.lean ====
section
/-! DEFINITION. `BYTE` in `IDLE` (41_idle_header_recognition.md R61) and the three things its shifted window can spell
(`HDR.ZERO` R63, `HDR.BADCRC` R64, `HDR` R65). Each row has a meaning of its own; Laws and the obligations say that they agree. -/

namespace Sys2Proof.Machine

/-- `step_idle(b)` (R61): shift, then test the shifted window; type 0 is reported before a bad crc (R63). -/
def execByteIdle (b : Byte) (s : State) : StepOutcome :=
  let w := shiftIn s.win b
  let s1 := setWindow w s
  if typeField w = 0#16 then .next (emit .rejZeroType none s1)
  else if crc16 (crcSpan w) ≠ crcField w then .next (emit .rejBadCrc none s1)
  else .next (emit .hdrAccept none (retainHeader (typeField w) (sizeField w) s1))

/-- `HDR.ZERO` (R63): the window holds the candidate; nothing else changes. -/
def execHdrZero (size crc : U16) (s : State) : StepOutcome :=
  .next (emit .rejZeroType none (setWindow (windowOf 0#16 size crc) s))

/-- `HDR.BADCRC` (R64): the window holds the candidate; nothing else changes. -/
def execHdrBadCrc (ftype size crc : U16) (s : State) : StepOutcome :=
  .next (emit .rejBadCrc none (setWindow (windowOf ftype size crc) s))

/-- `HDR` (R65): the window holds the header, which is retained; collecting begins. The size is not examined (R66). -/
def execHdr (ftype size crc : U16) (s : State) : StepOutcome :=
  .next (emit .hdrAccept none (retainHeader ftype size (setWindow (windowOf ftype size crc) s)))

end Sys2Proof.Machine
end

