-- ==== Sys2Proof/Machine/Source.lean ====
section
/-! DEFINITION. The events that are not bytes: `RESET`, `CLOSED`, `NO_DATA` (43_source_control_events.md R81 to R83). -/

namespace Sys2Proof.Machine

/-- `RESET` (R83): every piece of state at its reset value, no dispatch, code `NONE`. The event word of the step is not stepped. -/
def execReset (s : State) : StepOutcome := .next (emit .noStep none (clearState s))

/-- `CLOSED` (R82): no state is written, no flag is kept; code `NONE`. -/
def execClosed (_ignored : BitVec 9) (s : State) : StepOutcome := .next (emit .noStep none s)

/-- `NO_DATA` (R81): no state is written; code `NONE`. -/
def execNoData (_ignored : BitVec 8) (s : State) : StepOutcome := .next (emit .noStep none s)

end Sys2Proof.Machine
end

