-- ==== Sys2Proof/Machine/Dispatch.lean ====
section
/-! DEFINITION. One arm per operation (R47, R79). -/

namespace Sys2Proof.Machine

def exec (i : Instr) (s : State) : Host.Outcome State Fault Refusal :=
  match i with
  | .reset => Sys2Proof.Machine.execReset s
  | .closed ignored => Sys2Proof.Machine.execClosed ignored s
  | .byteIdle b => Sys2Proof.Machine.execByteIdle b s
  | .byteCollecting b => Sys2Proof.Machine.execByteCollecting b s
  | .noData ignored => Sys2Proof.Machine.execNoData ignored s
  | .hdrZero size crc => Sys2Proof.Machine.execHdrZero size crc s
  | .hdrBadCrc ftype size crc => Sys2Proof.Machine.execHdrBadCrc ftype size crc s
  | .hdr ftype size crc => Sys2Proof.Machine.execHdr ftype size crc s

end Sys2Proof.Machine
end

