-- ==== Sys2Proof/Machine/Step.lean ====
section
/-! DEFINITION. The step (R79): sample one event, decode it by the reset pin, the event word and `st`, consume it, run it.
And what it takes to have the very next step run a given word of the opcode table. -/

namespace Sys2Proof.Machine

/-- `step(S, e)` with `e` the event at the head of `input` (R79). -/
def step (s : State) : Host.Outcome State Fault Refusal :=
  exec (decodeSample s.st (nextSample s)) (consume s)

/-- `s` with the word `w` of an opcode-table row placed where the next step samples it (log entries 8 and 10): a pin or an event
word goes to the front of `input`; of a header, five bytes stand in the window and the sixth is the next `BYTE`, in `IDLE`. -/
def State.withFetchWord (s : State) (nbits w : Nat) : State :=
  match tableCodeWord nbits w with
  | .ok (.pin r) => offer ⟨r == 1, eventWord false false 0⟩ s
  | .ok (.ev e) => offer ⟨false, e⟩ s
  | .ok (.wh h) => offerHeader (windowOfWord h) s
  | .error _ => s

/-- `k` steps, stopping at the first that does not answer a next state (R84). -/
def runFor : Nat → State → Host.Outcome State Fault Refusal
  | 0, s => .next s
  | k + 1, s =>
    match step s with
    | .next t => runFor k t
    | .fault f => .fault f
    | .refused r => .refused r

/-- The outputs of up to `k` steps, in order: what a run observes (R80, R84). -/
def outputsFor : Nat → State → List Output
  | 0, _ => []
  | k + 1, s =>
    match step s with
    | .next t => t.out :: outputsFor k t
    | .fault _ => []
    | .refused _ => []

end Sys2Proof.Machine
end

