-- ==== Sys2Proof/Machine/Ports.lean ====
section
/-! DEFINITION. The output ports of the informative signal-level mapping (92_eei_decisions.md D2), as functions of the state after
a step. No meaning reads them (log entry 14). -/

namespace Sys2Proof.Machine

/-- `log`, the step's log code. -/
def portLog (s : State) : BitVec 3 := s.out.log.code

/-- `disp_valid`: 1 after a `FRAME_DONE` step. -/
def portDispValid (s : State) : Bool := s.out.log == .frameDone

/-- `disp_type`. -/
def portDispType (s : State) : U16 := s.hdrType

/-- `disp_size`. -/
def portDispSize (s : State) : U16 := s.hdrSize

/-- `pb_rdata` for `pb_raddr`, subject to the lifetime rule R108. -/
def portBufferRead (s : State) (raddr : U16) : Byte := s.pbuf.read raddr.toNat

/-- `busy`: `st`. -/
def portBusy (s : State) : BitVec 1 := stCode s.st

end Sys2Proof.Machine
end

