-- ==== Sys2Proof/Machine/Stimulus.lean ====
section
/-! DEFINITION. The stimulus notation (30_encoding.md R45, R46) and the frame on the wire (R41): specification functions, not
operations of the block. A header of type 0 is not built (R40): such a line has no expansion. -/

namespace Sys2Proof.Machine

/-- `mk_header(t, len(p)) ‖ p` (R41), for `t != 0` and a payload whose length a size field holds. -/
def frameBytes (t : U16) (p : List Byte) : Option (List Byte) :=
  if p.length < 65536 then (mkHeader t (BitVec.ofNat 16 p.length)).map (fun w => windowBytes w ++ p) else none

/-- One line of the stimulus notation: four events (R45) and four pseudo-instructions (R46). -/
inductive StimulusLine where
  | reset
  | byte (b : Byte)
  | nodata
  | closed
  | bytes (l : List Byte)
  | hdr (t s : U16)
  | frame (t : U16) (p : List Byte)
  | gap (n : Nat)
  deriving DecidableEq, Repr

/-- The port samples a line stands for (R45, R46). -/
def expandLine : StimulusLine → Option (List PortSample)
  | .reset => some [resetSample]
  | .byte b => some [byteSample b]
  | .nodata => some [noDataSample]
  | .closed => some [closedSample]
  | .bytes l => some (l.map byteSample)
  | .hdr t s => (mkHeader t s).map (fun w => (windowBytes w).map byteSample)
  | .frame t p => (frameBytes t p).map (fun l => l.map byteSample)
  | .gap n => some (List.replicate n noDataSample)

/-- A stimulus, line by line. -/
def expandLines : List StimulusLine → Option (List PortSample)
  | [] => some []
  | l :: rest =>
    match expandLine l, expandLines rest with
    | some a, some b => some (a ++ b)
    | _, _ => none

end Sys2Proof.Machine
end

