-- ==== Sys2Proof/Safety.lean ====
section
/-! DEFINITION. What counts as a safe state (10_state.md R22), and the words the statements use about runs: the architectural
state alone, the windows a byte list passes through, the dispatches of a run. -/

namespace Sys2Proof.Machine

/-- The invariants of R22 that are about one state, with the range of `MAX_PAYLOAD` (R6) and the form of the buffer (R16).
I5 to I7 are about steps and runs and are statements of their own. -/
structure Invariant (s : State) : Prop where
  /-- R6, R17: `1 <= MAX_PAYLOAD`; the upper bound is the field's width. -/
  capacity : 1 ≤ s.maxPayload.toNat
  /-- I1. -/
  typeNonzero : s.st = .collecting → s.hdrType ≠ 0#16
  /-- I2: the retained header is what the window holds. -/
  headerHeld : s.st = .collecting → s.hdrType = typeField s.win ∧ s.hdrSize = sizeField s.win ∧ hdrValid s.win = true
  /-- I3: the next append is inside `pbuf`. -/
  countInBuffer : s.st = .collecting →
    s.cnt.toNat < s.maxPayload.toNat ∧
      (s.cnt.toNat = 0 ∨ (s.cnt.toNat < s.hdrSize.toNat ∧ s.hdrSize.toNat ≤ s.maxPayload.toNat))
  /-- I4: the count never passes `max(hdr_size, 1)`. -/
  countBounded : s.cnt.toNat ≤ max s.hdrSize.toNat 1
  /-- The buffer is in canonical form. -/
  bufferForm : s.pbuf.wf
  /-- R16: the cells are `0` to `MAX_PAYLOAD - 1`. -/
  bufferRange : ∀ c ∈ s.pbuf, c.1 < s.maxPayload.toNat
  /-- R16, I5: every cell below the count has been written. -/
  cellsHeld : s.st = .collecting → ∀ i, i < s.cnt.toNat → (s.pbuf.lookup i).isSome = true

/-- The architectural state of R10 and the build parameter, without the model's own `input` and `out`. -/
def State.architectural (s : State) : State := { s with input := [], out := Output.quiet }

/-- The outcome of a run with only the architectural state of its end kept. -/
def architecturalEnd : StepOutcome → StepOutcome
  | .next s => .next s.architectural
  | .fault f => .fault f
  | .refused r => .refused r

/-- The dispatches of up to `k` steps, in order. -/
def dispatchesFor (k : Nat) (s : State) : List DispatchRecord := (outputsFor k s).filterMap Output.dispatch

/-- The window after the bytes `l` have been shifted in, in `IDLE` throughout (R62). -/
def windowAfter (w : Window) (l : List Byte) : Window := l.foldl shiftIn w

/-- No window that the bytes `l` pass through is a valid header (the hypothesis of R69). -/
def NoFalseHeader (w : Window) (l : List Byte) : Prop :=
  ∀ k, 1 ≤ k → k ≤ l.length → hdrValid (windowAfter w (l.take k)) = false

/-- A byte is what the next step samples: the sample is decoded as `BYTE` (R36, R79). -/
def samplesByte (p : PortSample) : Bool := !p.rst && !evClosed p.ev && evValid p.ev

/-- The event word carries no byte and the pin is low: `NO_DATA` or `CLOSED` (R81, R82). -/
def samplesNoByte (p : PortSample) : Bool := !p.rst && (evClosed p.ev || !evValid p.ev)

end Sys2Proof.Machine
end

