-- ==== Sys2Proof/Certificates/Slice0/Obligations.lean ====
section
/-! DEFINITION. The statements for the provers. Each says which rule of spec/ it formalises; where a clause is the model's own
choice, the docstring names the log entry. -/

open Sys2Proof Sys2Proof.Machine

/-! ## Encodings -/

/-- 30_encoding.md section 2 (R36, R37): the event word, total over all 1024 words; `closed` wins over `valid`; the operand of a byte
is used as is; and the canonical words. That `CLOSED` and `NO_DATA` carry the bits they do not use as operands is the model's choice
(log entry 15): the spec gives the two no operands. -/
def Obligations.EventWordDecodesByPriority : Prop :=
  (∀ (st : FrameState) (w : EventWord),
    (w.getLsbD 9 = true → decodeEvent st w = .closed (w.extractLsb' 0 9)) ∧
    (w.getLsbD 9 = false → w.getLsbD 8 = true →
      decodeEvent st w = match st with
        | .idle => .byteIdle (w.extractLsb' 0 8)
        | .collecting => .byteCollecting (w.extractLsb' 0 8)) ∧
    (w.getLsbD 9 = false → w.getLsbD 8 = false → decodeEvent st w = .noData (w.extractLsb' 0 8))) ∧
  (∀ b : Byte, (byteSample b).ev = 0x100#10 ||| b.setWidth 10) ∧ noDataSample.ev = 0x000#10 ∧ closedSample.ev = 0x200#10

/-- Words written out bit by bit from R36 and R38 decode to the operations they stand for. The numbering of a row's bits is the
model's reading of the opcode table (log entry 8); that `CLOSED` and `NO_DATA` carry the bits they do not use as operands is the
model's choice (log entry 15): the spec gives the two no operands. -/
def Obligations.WordsFromTheTableDecode : Prop :=
  decodeTableWord 8 0b1 = some .reset ∧
  decodeTableWord 16 0b1110100101 = some (.closed 0b110100101) ∧
  decodeTableWord 16 0b0111111111 = some (.byteIdle 0b11111111) ∧
  decode .collecting (.ev 0b0110101011) = .ok (.byteCollecting 0b10101011) ∧
  decodeTableWord 16 0b0011111111 = some (.noData 0b11111111) ∧
  decodeTableWord 48 0b000000000000000000000000000001011101010001100101 = some (.hdrZero 0b101 0b1101010001100101) ∧
  decodeTableWord 48 0b000000000000100000000000000101010110111111110100 =
    some (.hdrBadCrc 0b1000 0b10101 0b0110111111110100) ∧
  decodeTableWord 48 0b000000000000100000000000000101010110111111110101 =
    some (.hdr 0b1000 0b10101 0b0110111111110101)

/-- Every well-formed operation, in a framer state that selects its row, is what its word decodes to: no bit is dropped. -/
def Obligations.DecodeOfEncodeIsTheOperation : Prop :=
  ∀ (st : FrameState) (i : Instr), i.wellFormed = true → i.selectedIn st = true → decode st (encode i) = .ok i

/-- The other direction: a word has one meaning, and the operation it decodes to is well formed, selected, and encodes back. That a
`CLOSED` or `NO_DATA` word comes back with its ignored bits rests on the model's choice to keep them as operands (log entry 15). -/
def Obligations.EncodeOfDecodeIsTheWord : Prop :=
  ∀ (st : FrameState) (c : CodeWord) (i : Instr), decode st c = .ok i →
    encode i = c ∧ i.wellFormed = true ∧ i.selectedIn st = true

/-- 30_encoding.md section 4: every six-byte pattern falls in exactly one of three classes; type 0 first, whatever the crc. -/
def Obligations.HeaderClassesPartitionAllWindows : Prop :=
  ∀ w : Window,
    (typeField w = 0#16 → decodeHeader w = .hdrZero (sizeField w) (crcField w)) ∧
    (typeField w ≠ 0#16 → crc16 [w.w0, w.w1, w.w2, w.w3] ≠ crcField w →
      decodeHeader w = .hdrBadCrc (typeField w) (sizeField w) (crcField w)) ∧
    (typeField w ≠ 0#16 → crc16 [w.w0, w.w1, w.w2, w.w3] = crcField w →
      decodeHeader w = .hdr (typeField w) (sizeField w) (crcField w))

/-- 30_encoding.md sections 3 and 4: the valid six-byte patterns are exactly the headers `mk_header` builds, one for each nonzero
type and each size; `mk_header` of type 0 is not defined. -/
def Obligations.ValidHeadersAreExactlyTheBuiltOnes : Prop :=
  (∀ w : Window, hdrValid w = true ↔ ∃ t s : U16, mkHeader t s = some w) ∧
  (∀ t s : U16, t ≠ 0#16 → ∃ w, mkHeader t s = some w ∧ typeField w = t ∧ sizeField w = s ∧
    windowBytes w = [hiByte t, loByte t, hiByte s, loByte s,
      hiByte (crc16 [hiByte t, loByte t, hiByte s, loByte s]), loByte (crc16 [hiByte t, loByte t, hiByte s, loByte s])]) ∧
  (∀ s : U16, mkHeader 0#16 s = none)

/-- 30_encoding.md section 6 (R46): what the four pseudo-instructions expand to. That a `HDR` or `FRAME` of type 0, which the rule
does not admit, has no expansion is the model's reading (log entry 16). -/
def Obligations.PseudoInstructionsExpand : Prop :=
  (∀ l : List Byte, expandLine (.bytes l) = some (l.map byteSample)) ∧
  (∀ n : Nat, expandLine (.gap n) = some (List.replicate n noDataSample)) ∧
  (∀ t s : U16, t ≠ 0#16 → expandLine (.hdr t s) = some ((windowBytes (builtHeader t s)).map byteSample)) ∧
  (∀ s : U16, expandLine (.hdr 0#16 s) = none) ∧
  (∀ (t : U16) (p : List Byte), t ≠ 0#16 → p.length < 65536 →
    expandLine (.frame t p) =
      some ((windowBytes (builtHeader t (BitVec.ofNat 16 p.length)) ++ p).map byteSample)) ∧
  (∀ p : List Byte, expandLine (.frame 0#16 p) = none)

/-! ## The CRC -/

/-- R49, bit by bit: a left shift that loses bit 15, with feedback at bits 12, 5 and 0; and the rule's corner values. -/
def Obligations.CrcBitStepShiftsAndFeedsBack : Prop :=
  (∀ (acc : U16) (d : Bool) (i : Nat), i < 16 →
    (crcBitStep acc d).getLsbD i =
      ((decide (1 ≤ i) && acc.getLsbD (i - 1)) ^^
        ((acc.getLsbD 15 ^^ d) && (i == 0 || i == 5 || i == 12)))) ∧
  crcBitStep 0x0000 false = 0x0000 ∧ crcBitStep 0x0000 true = 0x1021 ∧
  crcBitStep 0x8000 false = 0x1021 ∧ crcBitStep 0x8000 true = 0x0000 ∧
  crcBitStep 0xFFFF true = 0xFFFE ∧ crcBitStep 0xFFFF false = 0xEFDF

/-- R50: the eight bits of a byte from `b[7]` down to `b[0]`; and the rule's example. -/
def Obligations.CrcByteStepFeedsBitsMsbFirst : Prop :=
  (∀ (acc : U16) (b : Byte),
    crcByteStep acc b =
      crcBitStep (crcBitStep (crcBitStep (crcBitStep (crcBitStep (crcBitStep (crcBitStep (crcBitStep acc
        (b.getLsbD 7)) (b.getLsbD 6)) (b.getLsbD 5)) (b.getLsbD 4)) (b.getLsbD 3)) (b.getLsbD 2)) (b.getLsbD 1))
        (b.getLsbD 0)) ∧
  crcByteStep 0xFFFF 0x41 = 0xB915

/-- R51: the empty list gives the initial value, one more byte is one more byte step; and the rule's corner values. -/
def Obligations.Crc16TakesBytesInOrder : Prop :=
  crc16 [] = 0xFFFF ∧
  (∀ (l : List Byte) (b : Byte), crc16 (l ++ [b]) = crcByteStep (crc16 l) b) ∧
  crc16 [0x00] = 0xE1F0 ∧ crc16 [0xFF] = 0xFF00 ∧ crc16 [0x00, 0x00, 0x00, 0x00] = 0x84C0 ∧
  crc16 [0xFF, 0xFF, 0xFF, 0xFF] = 0x1D0F ∧ crc16 [0x00, 0x08, 0x00, 0x15] = 0x6FF5

/-- R54: both conditions, the size taking no part; and the rule's corner cases. -/
def Obligations.HeaderValidityIsTypeAndCrc : Prop :=
  (∀ w : Window, hdrValid w = true ↔
    (typeField w ≠ 0#16 ∧ crc16 [w.w0, w.w1, w.w2, w.w3] = crcField w)) ∧
  hdrValid ⟨0x00, 0x00, 0x00, 0x00, 0x00, 0x00⟩ = false ∧
  hdrValid ⟨0x00, 0x00, 0x00, 0x05, 0xD4, 0x65⟩ = false ∧
  hdrValid ⟨0xFF, 0xFF, 0x00, 0x01, 0x10, 0x21⟩ = true ∧
  hdrValid ⟨0x00, 0x08, 0x00, 0x15, 0x6F, 0xF5⟩ = true ∧
  hdrValid ⟨0x00, 0x08, 0x00, 0x15, 0x6F, 0xF4⟩ = false

/-- The reference values of 40_crc16.md section 5 (the table headed "Reference values"), one value a row. -/
def Obligations.CrcReferenceValues : Prop :=
  crc16 [] = 0xFFFF ∧ crc16 [0x00] = 0xE1F0 ∧ crc16 [0x01] = 0xF1D1 ∧ crc16 [0x41] = 0xB915 ∧
  crc16 [0x80] = 0x7078 ∧ crc16 [0xFF] = 0xFF00 ∧ crc16 [0x00, 0x08] = 0x9C07 ∧
  crc16 [0x31, 0x32, 0x33, 0x34, 0x35, 0x36, 0x37, 0x38, 0x39] = 0x29B1 ∧
  crc16 [0x00, 0x00, 0x00, 0x00] = 0x84C0 ∧ crc16 [0x00, 0x00, 0x00, 0x01] = 0x94E1 ∧
  crc16 [0x00, 0x00, 0x00, 0x05] = 0xD465 ∧ crc16 [0x00, 0x01, 0x00, 0x00] = 0xB3F0 ∧
  crc16 [0x00, 0x01, 0x00, 0x01] = 0xA3D1 ∧ crc16 [0x00, 0x01, 0x00, 0x02] = 0x93B2 ∧
  crc16 [0x00, 0x01, 0x00, 0x07] = 0xC317 ∧ crc16 [0x00, 0x02, 0x00, 0x02] = 0xCAE2 ∧
  crc16 [0x00, 0x03, 0x00, 0x02] = 0xFDD2 ∧ crc16 [0x00, 0x03, 0x00, 0x03] = 0xEDF3 ∧
  crc16 [0x00, 0x04, 0x00, 0x03] = 0x6863 ∧ crc16 [0x00, 0x05, 0x00, 0x00] = 0x6F30 ∧
  crc16 [0x00, 0x06, 0x00, 0x01] = 0x2641 ∧ crc16 [0x00, 0x07, 0x00, 0x04] = 0x41D4 ∧
  crc16 [0x00, 0x07, 0x00, 0x05] = 0x51F5 ∧ crc16 [0x00, 0x08, 0x00, 0x03] = 0x1D02 ∧
  crc16 [0x00, 0x08, 0x00, 0x0D] = 0xFCCC ∧ crc16 [0x00, 0x08, 0x00, 0x15] = 0x6FF5 ∧
  crc16 [0x00, 0x08, 0x00, 0x19] = 0xAE79 ∧ crc16 [0x00, 0x09, 0x00, 0x01] = 0x0A70 ∧
  crc16 [0x01, 0x02, 0x00, 0x02] = 0xBC56 ∧ crc16 [0x03, 0xA6, 0x00, 0x01] = 0x0001 ∧
  crc16 [0x12, 0x34, 0x56, 0x78] = 0x30EC ∧ crc16 [0x4D, 0x01, 0x00, 0x01] = 0xF4CB ∧
  crc16 [0xF1, 0x4D, 0x01, 0x00] = 0x01F4 ∧ crc16 [0xFF, 0xFF, 0x00, 0x01] = 0x1021 ∧
  crc16 [0xFF, 0xFF, 0xFF, 0xFF] = 0x1D0F

/-- 40_crc16.md section 5 (byte-table form, the spec's inference): the printed table is `T[i] = crc_byte_step(i << 8, 0)`, and the
byte step by table is the byte step, for every accumulator and every byte. -/
def Obligations.ByteTableComputesTheByteStep : Prop :=
  crcTable.length = 256 ∧
  (∀ i : Nat, i < 256 → crcTable[i]? = some (crcByteStep (BitVec.ofNat 16 (i * 256)) 0)) ∧
  (∀ (acc : U16) (b : Byte), crcByteStep acc b = crcByteStepByTable acc b)

/-- 40_crc16.md section 5 (linearity, the spec's inference): for byte lists of the same length. -/
def Obligations.CrcIsLinearInTheBytes : Prop :=
  ∀ m e : List Byte, m.length = e.length →
    crc16 (List.zipWith (· ^^^ ·) m e) = crc16 m ^^^ crc16Zero e

/-- 40_crc16.md section 5 (the spec's inference): whether a corrupted valid header still passes the crc comparison depends on the
error pattern alone. -/
def Obligations.CorruptionPassesByItsPatternAlone : Prop :=
  ∀ w e : Window, hdrValid w = true →
    (crcMatches (windowOfWord (headerWordOf w ^^^ headerWordOf e)) = true ↔ crc16Zero (crcSpan e) = crcField e)

/-- 40_crc16.md section 5 (error detection, the spec's inference): flipping one, two or three different bits of a valid header is
always detected by the crc comparison. -/
def Obligations.OneToThreeBitErrorsAreDetected : Prop :=
  ∀ (h : HeaderWord) (ps : List (Fin 48)), hdrValid (windowOfWord h) = true →
    ps.Nodup → 1 ≤ ps.length → ps.length ≤ 3 →
    crcMatches (windowOfWord (ps.foldl (fun x p => x ^^^ (1#48 <<< p.val)) h)) = false

/-- 40_crc16.md section 5 (error detection, the spec's inference): every error confined to at most sixteen consecutive bits of the
48 is detected; and not every four-bit error is. -/
def Obligations.BurstErrorsAreDetected : Prop :=
  (∀ (h : HeaderWord) (e : BitVec 16) (k : Nat), hdrValid (windowOfWord h) = true → e ≠ 0#16 → k ≤ 32 →
    crcMatches (windowOfWord (h ^^^ (e.setWidth 48 <<< k))) = false) ∧
  (hdrValid (windowOfWord 0x000800156FF5#48) = true ∧
    hdrValid (windowOfWord (0x000800156FF5#48 ^^^ (1#48 <<< 47) ^^^ (1#48 <<< 43) ^^^ (1#48 <<< 36) ^^^ (1#48 <<< 31))) = true)

/-! ## The events that are not bytes -/

/-- 10_state.md section 6 (R21): the state right after reset. The cells of the payload buffer are unspecified; as a list of written
cells it is empty. That the reset state carries `MAX_PAYLOAD`, as any value of its range, is the model's choice (log entry 3). -/
def Obligations.ResetStateHoldsTheListedValues : Prop :=
  State.reset.st = .idle ∧ State.reset.win = ⟨0x00, 0x00, 0x00, 0x00, 0x00, 0x00⟩ ∧
  State.reset.hdrType = 0#16 ∧ State.reset.hdrSize = 0#16 ∧ State.reset.cnt = 0#16 ∧ State.reset.pbuf = [] ∧
  1 ≤ State.reset.maxPayload.toNat ∧ State.reset.maxPayload.toNat ≤ 65535

/-- R83: `RESET` takes priority over the event word of its step, whatever that word is, puts the state at the reset values with no
dispatch and code `NONE`, leaves the parameter and the events to come, and changes nothing when applied again. -/
def Obligations.ResetClearsTheState : Prop :=
  (∀ (st : FrameState) (w : EventWord), decodeSample st ⟨true, w⟩ = .reset) ∧
  (∀ s : State, exec .reset s = .next { s with
    st := .idle, win := ⟨0x00, 0x00, 0x00, 0x00, 0x00, 0x00⟩, hdrType := 0#16, hdrSize := 0#16, cnt := 0#16, pbuf := [],
    out := ⟨.noStep, none⟩ }) ∧
  (∀ s t : State, exec .reset s = .next t → exec .reset t = .next t)

/-- R82: `CLOSED` writes no state, dispatches nothing and logs `NONE`; no closed flag is kept, so what follows is processed as if
it had not come. -/
def Obligations.ClosedChangesNothing : Prop :=
  (∀ (x : BitVec 9) (s : State), exec (.closed x) s = .next { s with out := ⟨.noStep, none⟩ }) ∧
  (∀ (x : BitVec 9) (s t : State), exec (.closed x) s = .next t → step t = step s)

/-- 43_source_control_events.md section 2 (pseudocode of `NO_DATA`): no state is written, no dispatch, code `NONE`. -/
def Obligations.NoDataChangesNothing : Prop :=
  (∀ (x : BitVec 8) (s : State), exec (.noData x) s = .next { s with out := ⟨.noStep, none⟩ }) ∧
  (∀ (x : BitVec 8) (s t : State), exec (.noData x) s = .next t → step t = step s)

/-- 43_source_control_events.md section 2 and 95_test_vectors.md Part 4 item 3 (the spec's inference): taking a `NO_DATA` or a
`CLOSED` event out of the events to come changes neither the final state nor the dispatches. -/
def Obligations.EventsWithoutByteCanBeRemoved : Prop :=
  ∀ (s : State) (x y : List PortSample) (q : PortSample), samplesNoByte q = true →
    architecturalEnd (runFor (x.length + 1 + y.length) { s with input := x ++ q :: y }) =
      architecturalEnd (runFor (x.length + y.length) { s with input := x ++ y }) ∧
    dispatchesFor (x.length + 1 + y.length) { s with input := x ++ q :: y } =
      dispatchesFor (x.length + y.length) { s with input := x ++ y }

/-! ## `BYTE` in `IDLE` -/

/-- R63: the shift happens first; a shifted window of type 0 is rejected whatever its crc, and nothing but the window
changes. -/
def Obligations.IdleByteRejectsTypeZero : Prop :=
  ∀ (s : State) (b : Byte), s.st = .idle →
    typeField ⟨s.win.w1, s.win.w2, s.win.w3, s.win.w4, s.win.w5, b⟩ = 0#16 →
    exec (.byteIdle b) s = .next { s with
      win := ⟨s.win.w1, s.win.w2, s.win.w3, s.win.w4, s.win.w5, b⟩, out := ⟨.rejZeroType, none⟩ }

/-- R64: a shifted window of nonzero type whose crc field is wrong is rejected, and nothing but the window changes. -/
def Obligations.IdleByteRejectsBadCrc : Prop :=
  ∀ (s : State) (b : Byte), s.st = .idle →
    typeField ⟨s.win.w1, s.win.w2, s.win.w3, s.win.w4, s.win.w5, b⟩ ≠ 0#16 →
    crc16 [s.win.w1, s.win.w2, s.win.w3, s.win.w4] ≠ joinBytes s.win.w5 b →
    exec (.byteIdle b) s = .next { s with
      win := ⟨s.win.w1, s.win.w2, s.win.w3, s.win.w4, s.win.w5, b⟩, out := ⟨.rejBadCrc, none⟩ }

/-- R65: a valid shifted window is accepted in this same step, with any size; no byte is stored and nothing is
dispatched. -/
def Obligations.IdleByteAcceptsValidHeader : Prop :=
  ∀ (s : State) (b : Byte), s.st = .idle →
    hdrValid ⟨s.win.w1, s.win.w2, s.win.w3, s.win.w4, s.win.w5, b⟩ = true →
    exec (.byteIdle b) s = .next { s with
      st := .collecting, win := ⟨s.win.w1, s.win.w2, s.win.w3, s.win.w4, s.win.w5, b⟩,
      hdrType := joinBytes s.win.w1 s.win.w2, hdrSize := joinBytes s.win.w3 s.win.w4, cnt := 0#16,
      out := ⟨.hdrAccept, none⟩ }

/-- 41_idle_header_recognition.md section 2: the effect of each of the three header rows, for every well-formed header. That a
header row runs on its own, with the candidate placed in the window whole, is the model's choice (log entry 7). -/
def Obligations.HeaderRowsTakeTheirEffect : Prop :=
  (∀ (s : State) (z c : U16), s.st = .idle →
    exec (.hdrZero z c) s = .next { s with win := windowOf 0#16 z c, out := ⟨.rejZeroType, none⟩ }) ∧
  (∀ (s : State) (t z c : U16), s.st = .idle → (Instr.hdrBadCrc t z c).wellFormed = true →
    exec (.hdrBadCrc t z c) s = .next { s with win := windowOf t z c, out := ⟨.rejBadCrc, none⟩ }) ∧
  (∀ (s : State) (t z c : U16), s.st = .idle → (Instr.hdr t z c).wellFormed = true →
    exec (.hdr t z c) s = .next { s with
      st := .collecting, win := windowOf t z c, hdrType := t, hdrSize := z, cnt := 0#16, out := ⟨.hdrAccept, none⟩ })

/-- 30_encoding.md sections 1 and 7: the two levels agree. An Idle byte step is the header row its shifted window decodes to. -/
def Obligations.IdleByteRunsTheHeaderItSpells : Prop :=
  ∀ (s : State) (b : Byte), s.st = .idle →
    exec (.byteIdle b) s = exec (decodeHeader (shiftIn s.win b)) s

/-- Frame of the Idle rows (R61: an Idle byte step never touches `pbuf`; 41_idle_header_recognition.md section 2): every cell of
the payload buffer, the parameter and the events to come are unchanged; the retained header, the count and `st` change on
acceptance only. -/
def Obligations.IdleRowsLeaveTheRestAlone : Prop :=
  ∀ (i : Instr) (s t : State), s.st = .idle → i.selectedIn .idle = true → i.selectedIn .collecting = false →
    exec i s = .next t →
      t.pbuf = s.pbuf ∧ (∀ a, t.pbuf.read a = s.pbuf.read a) ∧ t.maxPayload = s.maxPayload ∧ t.input = s.input ∧
      t.out.dispatch = none ∧
      (t.out.log ≠ .hdrAccept → t.st = s.st ∧ t.hdrType = s.hdrType ∧ t.hdrSize = s.hdrSize ∧ t.cnt = s.cnt)

/-! ## `BYTE` in `COLLECTING` -/

/-- 42_collecting_dispatch.md section 1: a payload byte with more to come is stored at `pbuf[cnt]` and counted. -/
def Obligations.CollectingByteIsAppended : Prop :=
  ∀ (s : State) (b : Byte), s.st = .collecting → s.cnt.toNat < s.maxPayload.toNat →
    s.hdrSize.toNat ≤ s.maxPayload.toNat → s.cnt.toNat + 1 < s.hdrSize.toNat →
    ∃ t : State, exec (.byteCollecting b) s = .next t ∧
      t.cnt.toNat = s.cnt.toNat + 1 ∧ (∀ a, t.pbuf.read a = if a = s.cnt.toNat then b else s.pbuf.read a) ∧
      t.pbuf.lookup s.cnt.toNat = some b ∧ t.out = ⟨.collect, none⟩ ∧
      t.st = .collecting ∧ t.win = s.win ∧ t.hdrType = s.hdrType ∧ t.hdrSize = s.hdrSize ∧
      t.maxPayload = s.maxPayload ∧ t.input = s.input

/-- R72: the size exceeding `MAX_PAYLOAD`, strictly, aborts the frame after the append: the byte is stored and lost, `st` returns
to `IDLE`, nothing is dispatched. Under the invariants it fires at the first byte step after the acceptance and never later; and at
the largest capacity it never fires (92_eei_decisions.md D4). -/
def Obligations.OversizeFrameIsAborted : Prop :=
  (∀ (s : State) (b : Byte), s.st = .collecting → s.cnt.toNat < s.maxPayload.toNat →
    s.maxPayload.toNat < s.hdrSize.toNat →
    ∃ t : State, exec (.byteCollecting b) s = .next t ∧
      t.cnt.toNat = s.cnt.toNat + 1 ∧ (∀ a, t.pbuf.read a = if a = s.cnt.toNat then b else s.pbuf.read a) ∧
      t.out = ⟨.abortOversize, none⟩ ∧ t.st = .idle ∧ t.win = s.win ∧ t.hdrType = s.hdrType ∧
      t.hdrSize = s.hdrSize ∧ t.maxPayload = s.maxPayload ∧ t.input = s.input) ∧
  (∀ s t : State, Invariant s → step s = .next t → t.out.log = .abortOversize →
    s.cnt = 0#16 ∧ s.maxPayload.toNat < s.hdrSize.toNat) ∧
  (∀ s t : State, s.maxPayload = 0xFFFF → step s = .next t → t.out.log ≠ .abortOversize)

/-- R73: the byte that meets the declared size completes the frame: the same step stores it, returns to `IDLE` and dispatches the
type, the size and the first `hdr_size` cells as they read after the append. Under the invariants, for a size of at least 1, that is
exactly when the count after the append equals the size. -/
def Obligations.CompletedFrameIsDispatched : Prop :=
  (∀ (s : State) (b : Byte), s.st = .collecting → s.cnt.toNat < s.maxPayload.toNat →
    s.hdrSize.toNat ≤ s.maxPayload.toNat → s.hdrSize.toNat ≤ s.cnt.toNat + 1 →
    ∃ (t : State) (p : List Byte), exec (.byteCollecting b) s = .next t ∧
      t.out = ⟨.frameDone, some ⟨s.hdrType, s.hdrSize, p⟩⟩ ∧ p.length = s.hdrSize.toNat ∧
      (∀ i, i < s.hdrSize.toNat → p[i]? = some (if i = s.cnt.toNat then b else s.pbuf.read i)) ∧
      t.cnt.toNat = s.cnt.toNat + 1 ∧ (∀ a, t.pbuf.read a = if a = s.cnt.toNat then b else s.pbuf.read a) ∧
      t.st = .idle ∧ t.win = s.win ∧ t.hdrType = s.hdrType ∧ t.hdrSize = s.hdrSize ∧
      t.maxPayload = s.maxPayload ∧ t.input = s.input) ∧
  (∀ s t : State, Invariant s → s.st = .collecting → 1 ≤ s.hdrSize.toNat → samplesByte (nextSample s) = true →
    step s = .next t → s.hdrSize.toNat ≤ s.maxPayload.toNat →
    (t.out.log = .frameDone ↔ s.cnt.toNat + 1 = s.hdrSize.toNat))

/-- R74: a zero-size frame is accepted with no dispatch, completes on the next byte, whatever it is, and delivers an empty payload;
the byte is consumed: stored in `pbuf[0]`, not delivered, not shifted into the window. Until a byte comes the frame waits. -/
def Obligations.ZeroSizeFrameSwallowsOneByte : Prop :=
  ∀ (s : State) (b c : Byte), s.st = .idle → 1 ≤ s.maxPayload.toNat →
    hdrValid (shiftIn s.win b) = true → sizeField (shiftIn s.win b) = 0#16 →
    ∃ t u : State, exec (.byteIdle b) s = .next t ∧ t.st = .collecting ∧ t.out = ⟨.hdrAccept, none⟩ ∧
      (∀ x, exec (.noData x) t = .next { t with out := ⟨.noStep, none⟩ }) ∧
      (∀ x, exec (.closed x) t = .next { t with out := ⟨.noStep, none⟩ }) ∧
      exec (.byteCollecting c) t = .next u ∧ u.st = .idle ∧
      u.out = ⟨.frameDone, some ⟨typeField (shiftIn s.win b), 0#16, []⟩⟩ ∧
      u.cnt = 1#16 ∧ u.pbuf.lookup 0 = some c ∧ u.win = shiftIn s.win b

/-- R71 and the frame of `BYTE.COLLECTING`: under the invariants the index is inside `pbuf`; and then, whatever becomes of the frame,
the byte is stored there and counted, and the window, the retained header, the parameter, the events to come, and every other cell
are unchanged. -/
def Obligations.CollectingByteStoresOneCellOnly : Prop :=
  (∀ s : State, Invariant s → s.st = .collecting → s.cnt.toNat < s.maxPayload.toNat) ∧
  (∀ (s : State) (b : Byte), s.st = .collecting → s.cnt.toNat < s.maxPayload.toNat →
    ∃ t : State, exec (.byteCollecting b) s = .next t ∧
      t.pbuf.lookup s.cnt.toNat = some b ∧ t.cnt.toNat = s.cnt.toNat + 1 ∧
      t.win = s.win ∧ t.hdrType = s.hdrType ∧ t.hdrSize = s.hdrSize ∧ t.maxPayload = s.maxPayload ∧ t.input = s.input ∧
      (∀ a, a ≠ s.cnt.toNat → t.pbuf.lookup a = s.pbuf.lookup a ∧ t.pbuf.read a = s.pbuf.read a))

/-- 42_collecting_dispatch.md section 3: payload bytes are not examined. Two different bytes at the same place lead to the same
framer state, window, header, count, log code and dispatch type, size and length. For states in `IDLE` this is about the model's
choice (log entry 9). -/
def Obligations.PayloadBytesAreNotExamined : Prop :=
  ∀ (s t u : State) (b c : Byte), exec (.byteCollecting b) s = .next t → exec (.byteCollecting c) s = .next u →
    t.st = u.st ∧ t.win = u.win ∧ t.hdrType = u.hdrType ∧ t.hdrSize = u.hdrSize ∧ t.cnt = u.cnt ∧ t.out.log = u.out.log ∧
    t.out.dispatch.map (fun d => (d.ftype, d.size, d.payload.length)) =
      u.out.dispatch.map (fun d => (d.ftype, d.size, d.payload.length))

/-- The model's choice (log entry 5), for states no run reaches: an append at an index that is no cell of `pbuf` stores nothing. The
step goes on all the same: the byte is counted, on 16 bits (a count of 65535 becomes 0), and the two tests of
42_collecting_dispatch.md section 1 are made on the result. An oversize frame is aborted; a frame whose size the count now meets is
delivered from the cells as they are; any other is collected further, which takes the count of 65535 and a size of at least 1. -/
def Obligations.AppendOutsideTheBufferStoresNothing : Prop :=
  ∀ (s : State) (b : Byte), s.st = .collecting → s.maxPayload.toNat ≤ s.cnt.toNat →
    ∃ t : State, exec (.byteCollecting b) s = .next t ∧ t.pbuf = s.pbuf ∧ t.cnt = s.cnt + 1#16 ∧
      t.win = s.win ∧ t.hdrType = s.hdrType ∧ t.hdrSize = s.hdrSize ∧ t.maxPayload = s.maxPayload ∧ t.input = s.input ∧
      (s.maxPayload.toNat < s.hdrSize.toNat → t.st = .idle ∧ t.out = ⟨.abortOversize, none⟩) ∧
      (s.hdrSize.toNat ≤ s.maxPayload.toNat → s.hdrSize.toNat ≤ (s.cnt + 1#16).toNat →
        t.st = .idle ∧ t.out = ⟨.frameDone, some (heldFrame s)⟩) ∧
      (s.hdrSize.toNat ≤ s.maxPayload.toNat → (s.cnt + 1#16).toNat < s.hdrSize.toNat →
        s.cnt = 65535#16 ∧ t.st = .collecting ∧ t.out = ⟨.collect, none⟩)

/-- The cells of the payload buffer (20_memory.md sections 1 and 4): a read after a store, every other cell, and the canonical form and
range of the list of written cells. That a store to an index that is no cell leaves the list as it is, is the model's choice (log
entry 5). -/
def Obligations.PayloadCellsReadBack : Prop :=
  ∀ (m : Memory) (cap i : Nat) (b : Byte),
    (i < cap → (m.storeCell cap i b).read i = b) ∧
    (∀ j, j ≠ i → (m.storeCell cap i b).read j = m.read j ∧ (m.storeCell cap i b).lookup j = m.lookup j) ∧
    (cap ≤ i → m.storeCell cap i b = m) ∧
    (m.wf → (m.storeCell cap i b).wf) ∧
    ((∀ c ∈ m, c.1 < cap) → ∀ c ∈ m.storeCell cap i b, c.1 < cap)

/-! ## The step -/

/-- 43_source_control_events.md section 1: the event of a step is formed from the sample at the head of the events to come, the pin
first, then `ev[9]`, then `ev[8]`; it is consumed, and the operation it selects is run on the state. The operands of `CLOSED` and `NO_DATA` are the bits they
do not use: the model's choice (log entry 15). -/
def Obligations.StepTakesOneEventByPriority : Prop :=
  ∀ (s : State) (rst : Bool) (ev : EventWord) (rest : List PortSample), s.input = ⟨rst, ev⟩ :: rest →
    (rst = true → step s = exec .reset { s with input := rest }) ∧
    (rst = false → ev.getLsbD 9 = true → step s = exec (.closed (ev.extractLsb' 0 9)) { s with input := rest }) ∧
    (rst = false → ev.getLsbD 9 = false → ev.getLsbD 8 = true → s.st = .idle →
      step s = exec (.byteIdle (ev.extractLsb' 0 8)) { s with input := rest }) ∧
    (rst = false → ev.getLsbD 9 = false → ev.getLsbD 8 = true → s.st = .collecting →
      step s = exec (.byteCollecting (ev.extractLsb' 0 8)) { s with input := rest }) ∧
    (rst = false → ev.getLsbD 9 = false → ev.getLsbD 8 = false →
      step s = exec (.noData (ev.extractLsb' 0 8)) { s with input := rest })

/-- A step runs the decoded operation, which is well formed and selected by `st`. With no event left, the step is `NO_DATA`: the
model's choice (log entry 1). -/
def Obligations.StepRunsTheDecodedOperation : Prop :=
  (∀ (s : State) (p : PortSample) (rest : List PortSample), s.input = p :: rest →
    step s = exec (decodeSample s.st p) { s with input := rest } ∧
    (decodeSample s.st p).wellFormed = true ∧ (decodeSample s.st p).selectedIn s.st = true) ∧
  (∀ s : State, s.input = [] → step s = exec (.noData 0) s)

/-- A word of the opcode table placed where the next step samples it is run by that step, header words included: the model's choice
of what placing a word means (log entries 7, 8 and 10). -/
def Obligations.PlacedWordIsRunNext : Prop :=
  ∀ (s : State) (nbits w : Nat) (c : CodeWord) (i : Instr),
    tableCodeWord nbits w = .ok c → decode s.st c = .ok i → step (s.withFetchWord nbits w) = exec i s

/-- R80: exactly one log code a step; a dispatch is present exactly when the code is `FRAME_DONE`, with as many payload bytes as its
size says; the output depends on the state before the step and on the event, and not on the output before. -/
def Obligations.DispatchExactlyWhenFrameDone : Prop :=
  (∀ s t : State, step s = .next t → (t.out.dispatch ≠ none ↔ t.out.log = .frameDone) ∧
    ∀ d, t.out.dispatch = some d → d.payload.length = d.size.toNat) ∧
  (∀ (s : State) (o : Output), step { s with out := o } = step s)

/-- R87: the number of each code, 7 never produced, and when each code is emitted, with the state effect of that step. The
clauses about a stored byte are for an index that is a cell of the buffer, as I3 says it is whenever `st` is `COLLECTING`. -/
def Obligations.LogCodeSaysWhatTheStepDid : Prop :=
  (LogCode.noStep.code = 0 ∧ LogCode.rejZeroType.code = 1 ∧ LogCode.rejBadCrc.code = 2 ∧ LogCode.hdrAccept.code = 3 ∧
    LogCode.collect.code = 4 ∧ LogCode.abortOversize.code = 5 ∧ LogCode.frameDone.code = 6 ∧
    ∀ l : LogCode, l.code ≠ 7) ∧
  (∀ s t : State, step s = .next t →
    let p := nextSample s
    let w := shiftIn s.win (evData p.ev)
    (t.out.log = .noStep ↔ samplesByte p = false) ∧
    (t.out.log = .rejZeroType ↔ samplesByte p = true ∧ s.st = .idle ∧ typeField w = 0#16) ∧
    (t.out.log = .rejBadCrc ↔ samplesByte p = true ∧ s.st = .idle ∧ typeField w ≠ 0#16 ∧ crc16 (crcSpan w) ≠ crcField w) ∧
    (t.out.log = .hdrAccept ↔ samplesByte p = true ∧ s.st = .idle ∧ hdrValid w = true) ∧
    (t.out.log = .abortOversize ↔ samplesByte p = true ∧ s.st = .collecting ∧ s.maxPayload.toNat < s.hdrSize.toNat) ∧
    ((s.st = .collecting → s.cnt.toNat < s.maxPayload.toNat) →
      (t.out.log = .collect ↔ samplesByte p = true ∧ s.st = .collecting ∧ ¬ s.maxPayload.toNat < s.hdrSize.toNat ∧
        ¬ s.hdrSize.toNat ≤ s.cnt.toNat + 1) ∧
      (t.out.log = .frameDone ↔ samplesByte p = true ∧ s.st = .collecting ∧ ¬ s.maxPayload.toNat < s.hdrSize.toNat ∧
        s.hdrSize.toNat ≤ s.cnt.toNat + 1) ∧
      (t.out.log = .collect → t.architectural =
        { s with pbuf := s.pbuf.write s.cnt.toNat (evData p.ev), cnt := s.cnt + 1#16 }.architectural) ∧
      (t.out.log = .abortOversize ∨ t.out.log = .frameDone → t.architectural =
        { s with st := .idle, pbuf := s.pbuf.write s.cnt.toNat (evData p.ev), cnt := s.cnt + 1#16 }.architectural)) ∧
    (p.rst = true → t.architectural = { State.reset with maxPayload := s.maxPayload }.architectural) ∧
    (t.out.log = .noStep → p.rst = false → t.architectural = s.architectural) ∧
    (t.out.log = .rejZeroType ∨ t.out.log = .rejBadCrc → t.architectural = { s with win := w }.architectural) ∧
    (t.out.log = .hdrAccept → t.architectural =
      { s with st := .collecting, win := w, hdrType := typeField w, hdrSize := sizeField w, cnt := 0#16 }.architectural) ∧
    (t.out.dispatch ≠ none ↔ t.out.log = .frameDone))

/-- R12: the window is written only by an Idle byte step, which shifts, and by reset; it is frozen in `COLLECTING` and not cleared by
any transition. -/
def Obligations.WindowChangesOnlyByShiftAndReset : Prop :=
  ∀ s t : State, step s = .next t →
    t.win =
      if (nextSample s).rst then ⟨0x00, 0x00, 0x00, 0x00, 0x00, 0x00⟩
      else if samplesByte (nextSample s) = true ∧ s.st = .idle then
        ⟨s.win.w1, s.win.w2, s.win.w3, s.win.w4, s.win.w5, evData (nextSample s).ev⟩
      else s.win

/-- 10_state.md section 2: the retained header is loaded from the window on acceptance, cleared by reset, and else held, also after
the frame ends. -/
def Obligations.RetainedHeaderIsHeld : Prop :=
  ∀ s t : State, step s = .next t →
    (t.out.log = .hdrAccept → t.hdrType = typeField t.win ∧ t.hdrSize = sizeField t.win) ∧
    ((nextSample s).rst = true → t.hdrType = 0#16 ∧ t.hdrSize = 0#16) ∧
    ((nextSample s).rst = false → t.out.log ≠ .hdrAccept → t.hdrType = s.hdrType ∧ t.hdrSize = s.hdrSize)

/-- R15: the count is 0 after an acceptance (and after reset), one more after every Collecting byte step (with the index
inside the buffer, as I3 says it is), and else held. Under the invariants it never wraps, and it never passes the larger of the
retained size and 1. -/
def Obligations.CountCountsPayloadBytes : Prop :=
  ∀ s t : State, step s = .next t →
    (t.out.log = .hdrAccept → t.cnt = 0#16) ∧
    ((nextSample s).rst = true → t.cnt = 0#16) ∧
    (samplesByte (nextSample s) = true → s.st = .collecting → s.cnt.toNat < s.maxPayload.toNat →
      t.cnt.toNat = s.cnt.toNat + 1) ∧
    (samplesByte (nextSample s) = true → s.st = .idle → t.out.log ≠ .hdrAccept → t.cnt = s.cnt) ∧
    (samplesNoByte (nextSample s) = true → t.cnt = s.cnt) ∧
    (Invariant s → samplesByte (nextSample s) = true → s.st = .collecting → t.cnt.toNat = s.cnt.toNat + 1) ∧
    (Invariant s → t.cnt.toNat ≤ max t.hdrSize.toNat 1)

/-- 20_memory.md section 1: a byte goes to exactly one of the two stores, by `st` (to the buffer when the index is one of its cells, as
I3 says it is); no other event but reset touches either. -/
def Obligations.EachByteGoesToOneStore : Prop :=
  ∀ s t : State, step s = .next t → (nextSample s).rst = false →
    (s.st = .idle → t.pbuf = s.pbuf) ∧ (s.st = .collecting → t.win = s.win) ∧
    (samplesByte (nextSample s) = true → s.st = .idle → t.win.w5 = evData (nextSample s).ev) ∧
    (samplesByte (nextSample s) = true → s.st = .collecting → s.cnt.toNat < s.maxPayload.toNat →
      t.pbuf.lookup s.cnt.toNat = some (evData (nextSample s).ev)) ∧
    (samplesByte (nextSample s) = false → t.win = s.win ∧ t.pbuf = s.pbuf)

/-- 10_state.md section 2: the capacity is static; no event changes it. -/
def Obligations.CapacityIsStatic : Prop :=
  ∀ s t : State, step s = .next t → t.maxPayload = s.maxPayload

/-- 42_collecting_dispatch.md section 3: `COLLECTING` is left only by a byte that aborts or completes the frame, or by reset; an
event without a byte leaves it where it is, with the same count. -/
def Obligations.OnlyBytesOrResetEndAFrame : Prop :=
  ∀ s t : State, step s = .next t → s.st = .collecting →
    (t.st = .idle → (nextSample s).rst = true ∨
      (samplesByte (nextSample s) = true ∧ (t.out.log = .abortOversize ∨ t.out.log = .frameDone))) ∧
    (samplesNoByte (nextSample s) = true → t.st = .collecting ∧ t.cnt = s.cnt)

/-- 41_idle_header_recognition.md section 3 and 60_exceptions.md section 4 (the spec's inference): after a dispatch there is no second
one before two more `BYTE` events. However many steps follow, with whatever events that are no byte among them, while at most one of
their events is a byte there is no dispatch. -/
def Obligations.DispatchesAreAtLeastTwoBytesApart : Prop :=
  ∀ s t : State, step s = .next t → t.out.dispatch ≠ none →
    ∀ k : Nat, ((t.input.take k).filter samplesByte).length ≤ 1 → dispatchesFor k t = []

/-- The informative output ports of 92_eei_decisions.md D2 present the dispatch record of the step: a view of the model's choice of
names (log entry 14). -/
def Obligations.OutputPortsPresentTheDispatch : Prop :=
  ∀ s t : State, step s = .next t →
    portDispValid t = t.out.dispatch.isSome ∧
    (∀ d, t.out.dispatch = some d →
      portDispType t = d.ftype ∧ portDispSize t = d.size ∧
      ∀ i, i < d.size.toNat → d.payload[i]? = some (portBufferRead t (BitVec.ofNat 16 i)))

/-! ## Invariants -/

/-- 10_state.md section 7: the invariants hold in the reset state, whatever `MAX_PAYLOAD` the build fixed. -/
def Obligations.ResetStateMeetsTheInvariants : Prop := Invariant State.reset

/-- 10_state.md section 7 (I1 to I4, and the form and range of the buffer; the spec's inference): every step from any state that
meets them gives a state that meets them. -/
def Obligations.StepKeepsTheInvariants : Prop :=
  ∀ s t : State, Invariant s → step s = .next t → Invariant t

/-- 43_source_control_events.md sections 1 and 3: the step is total. From every state, whatever the event, it answers a next state,
never a fault and never a refusal; so a run of any length goes through, consumes one event a step, in order, and gives one output a
step. (In states no run reaches, this rests on log entry 5.) -/
def Obligations.StepIsTotal : Prop :=
  (∀ s : State, ∃ t : State, step s = .next t) ∧
  (∀ (k : Nat) (s : State), ∃ t : State, runFor k s = .next t ∧ t.input = s.input.drop k ∧ (outputsFor k s).length = k)

/-- 10_state.md section 7, I5 and I6 (the spec's inference): a dispatch comes of a byte taken in `COLLECTING` and carries a whole
frame: a nonzero type, the retained type and size, a size within the capacity, exactly that many bytes, each of them a written cell,
and the last of them the byte of this very step. (That they are the bytes of this frame is said over runs, by
DeclaredPayloadIsDeliveredWhole.) -/
def Obligations.DispatchCarriesAWholeFrame : Prop :=
  ∀ (s t : State) (d : DispatchRecord), Invariant s → step s = .next t → t.out.dispatch = some d →
    samplesByte (nextSample s) = true ∧ s.st = .collecting ∧ d.ftype ≠ 0#16 ∧ d.ftype = s.hdrType ∧ d.size = s.hdrSize ∧
    d.size.toNat ≤ s.maxPayload.toNat ∧ d.payload.length = d.size.toNat ∧
    (∀ i, i < d.size.toNat → d.payload[i]? = t.pbuf.lookup i) ∧
    (1 ≤ d.size.toNat → d.payload[d.size.toNat - 1]? = some (evData (nextSample s).ev))

/-- 10_state.md section 7, I7 (the spec's inference): until a header is accepted, the retained header and the count stay 0. -/
def Obligations.NothingIsRetainedBeforeAcceptance : Prop :=
  ∀ s t : State, s.st = .idle → s.hdrType = 0#16 → s.hdrSize = 0#16 → s.cnt = 0#16 → step s = .next t → t.out.log ≠ .hdrAccept →
    t.st = .idle ∧ t.hdrType = 0#16 ∧ t.hdrSize = 0#16 ∧ t.cnt = 0#16

/-! ## Runs -/

/-- 41_idle_header_recognition.md section 3 (early acceptance, the spec's inference): after reset the first four byte steps always
reject type 0, whatever the bytes and the capacity. -/
def Obligations.FirstFourBytesAfterResetAreRejected : Prop :=
  ∀ (m : U16) (b0 b1 b2 b3 : Byte) (rest : List PortSample),
    outputsFor 4 { State.reset with
      maxPayload := m, input := byteSample b0 :: byteSample b1 :: byteSample b2 :: byteSample b3 :: rest } =
    [⟨.rejZeroType, none⟩, ⟨.rejZeroType, none⟩, ⟨.rejZeroType, none⟩, ⟨.rejZeroType, none⟩]

/-- 42_collecting_dispatch.md section 2 and 10_state.md section 7, I5 (the spec's inference): after an acceptance, the next `size`
bytes, `1 <= size <= MAX_PAYLOAD`, are collected and delivered, in order and unchanged, by the step of the last of them. -/
def Obligations.DeclaredPayloadIsDeliveredWhole : Prop :=
  ∀ (s : State) (p : List Byte) (rest : List PortSample), s.st = .collecting → s.cnt = 0#16 →
    s.hdrSize.toNat = p.length → 1 ≤ p.length → p.length ≤ s.maxPayload.toNat →
    s.input = p.map byteSample ++ rest →
    ∃ t : State, runFor p.length s = .next t ∧ t.st = .idle ∧ t.win = s.win ∧ t.input = rest ∧
      outputsFor p.length s =
        List.replicate (p.length - 1) ⟨.collect, none⟩ ++ [⟨.frameDone, some ⟨s.hdrType, s.hdrSize, p⟩⟩]

/-- 41_idle_header_recognition.md section 3 (resynchronisation, the spec's inference): from `IDLE` with any window, after any bytes
`g`, a whole frame is recognised at its sixth header byte and dispatched at its last payload byte, with no other dispatch, provided
no earlier window is valid. -/
def Obligations.FrameIsFoundAfterAnyGarbage : Prop :=
  ∀ (s : State) (g p : List Byte) (t : U16) (rest : List PortSample), s.st = .idle → t ≠ 0#16 →
    1 ≤ p.length → p.length ≤ s.maxPayload.toNat →
    s.input = (g ++ windowBytes (builtHeader t (BitVec.ofNat 16 p.length)) ++ p).map byteSample ++ rest →
    NoFalseHeader s.win (g ++ (windowBytes (builtHeader t (BitVec.ofNat 16 p.length))).take 5) →
    (∃ a : State, runFor (g.length + 6) s = .next a ∧ a.out = ⟨.hdrAccept, none⟩ ∧ a.st = .collecting ∧
      a.hdrType = t ∧ a.hdrSize = BitVec.ofNat 16 p.length) ∧
    (∃ e : State, runFor (g.length + 6 + p.length) s = .next e ∧ e.st = .idle ∧ e.input = rest ∧
      e.out = ⟨.frameDone, some ⟨t, BitVec.ofNat 16 p.length, p⟩⟩) ∧
    dispatchesFor (g.length + 6 + p.length) s = [⟨t, BitVec.ofNat 16 p.length, p⟩]

/-- 95_test_vectors.md Part 4 item 5: the first frame after reset is dispatched exactly once, at its last byte, provided the one
window that can be valid early, a reset zero and the first five header bytes, is not. -/
def Obligations.FirstFrameAfterResetIsDispatched : Prop :=
  ∀ (m t : U16) (p : List Byte) (rest : List PortSample), t ≠ 0#16 → 1 ≤ p.length → p.length ≤ m.toNat →
    hdrValid ⟨0x00, (builtHeader t (BitVec.ofNat 16 p.length)).w0, (builtHeader t (BitVec.ofNat 16 p.length)).w1,
      (builtHeader t (BitVec.ofNat 16 p.length)).w2, (builtHeader t (BitVec.ofNat 16 p.length)).w3,
      (builtHeader t (BitVec.ofNat 16 p.length)).w4⟩ = false →
    dispatchesFor (6 + p.length) { State.reset with
      maxPayload := m,
      input := (windowBytes (builtHeader t (BitVec.ofNat 16 p.length)) ++ p).map byteSample ++ rest } =
      [⟨t, BitVec.ofNat 16 p.length, p⟩] ∧
    ∃ e : State, runFor (6 + p.length) { State.reset with
      maxPayload := m,
      input := (windowBytes (builtHeader t (BitVec.ofNat 16 p.length)) ++ p).map byteSample ++ rest } = .next e ∧
      e.out = ⟨.frameDone, some ⟨t, BitVec.ofNat 16 p.length, p⟩⟩ ∧ e.st = .idle ∧
      e.cnt.toNat = p.length
end

