-- ==== Sys2Proof/Laws/Crc.lean ====
section
/-! SUPPORT. One bit of input and one byte of input are XOR-linear in accumulator and data jointly (R58). -/

namespace Sys2Proof.Machine

theorem crcBitStep_xor (a a' : U16) (d d' : Bool) :
    crcBitStep (a ^^^ a') (d ^^ d') = crcBitStep a d ^^^ crcBitStep a' d' := by
  simp only [crcBitStep, BitVec.getLsbD_xor, BitVec.shiftLeft_xor_distrib]
  generalize a.getLsbD 15 = p
  generalize a'.getLsbD 15 = q
  generalize a <<< 1 = x
  generalize a' <<< 1 = y
  cases p <;> cases q <;> cases d <;> cases d' <;>
    simp [← BitVec.xor_assoc] <;>
    (apply BitVec.eq_of_getLsbD_eq; intro i hi; simp only [BitVec.getLsbD_xor];
     cases x.getLsbD i <;> cases y.getLsbD i <;> cases crcPoly.getLsbD i <;> rfl)

theorem crcByteStep_xor (a a' : U16) (b b' : Byte) :
    crcByteStep (a ^^^ a') (b ^^^ b') = crcByteStep a b ^^^ crcByteStep a' b' := by
  simp only [crcByteStep, List.foldl_cons, List.foldl_nil, BitVec.getLsbD_xor, crcBitStep_xor]

theorem crc16_append (l m : List Byte) : crc16 (l ++ m) = crcFrom (crc16 l) m := by
  simp [crc16, crcFrom]

end Sys2Proof.Machine
end

