-- ==== Sys2Proof/Laws/Encoding.lean ====
section
/-! SUPPORT. Fields read back from the words built from them, and words built back from their fields. -/

namespace Sys2Proof.Machine

theorem joinBytes_bit (a b : Byte) (i : Nat) :
    (joinBytes a b).getLsbD i = if i < 8 then b.getLsbD i else a.getLsbD (i - 8) := BitVec.getLsbD_append

theorem eventWord_bit (c v : Bool) (d : Byte) (i : Nat) :
    (eventWord c v d).getLsbD i =
      if i < 8 then d.getLsbD i
      else if i - 8 < 1 then (BitVec.ofBool v).getLsbD (i - 8) else (BitVec.ofBool c).getLsbD (i - 8 - 1) := by
  have h : (eventWord c v d).getLsbD i =
      if i < 8 then d.getLsbD i else (BitVec.ofBool c ++ BitVec.ofBool v).getLsbD (i - 8) := BitVec.getLsbD_append
  rw [h, BitVec.getLsbD_append]

theorem closedWord_bit (x : BitVec 9) (i : Nat) :
    (closedWord x).getLsbD i = if i < 9 then x.getLsbD i else (BitVec.ofBool true).getLsbD (i - 9) := BitVec.getLsbD_append

@[simp] theorem hiByte_joinBytes (a b : Byte) : hiByte (joinBytes a b) = a := by
  apply BitVec.eq_of_getLsbD_eq; intro i hi
  simp [hiByte, joinBytes_bit, hi]

@[simp] theorem loByte_joinBytes (a b : Byte) : loByte (joinBytes a b) = b := by
  apply BitVec.eq_of_getLsbD_eq; intro i hi
  simp [loByte, joinBytes_bit, hi]

@[simp] theorem joinBytes_hi_lo (v : U16) : joinBytes (hiByte v) (loByte v) = v := by
  apply BitVec.eq_of_getLsbD_eq; intro i hi
  simp only [hiByte, loByte, joinBytes, BitVec.getLsbD_append, BitVec.getLsbD_extractLsb']
  split
  · simp [*]
  · have : i - 8 < 8 := by omega
    have h8 : 8 + (i - 8) = i := by omega
    simp [this, h8]

@[simp] theorem typeField_windowOf (t z c : U16) : typeField (windowOf t z c) = t := joinBytes_hi_lo t
@[simp] theorem sizeField_windowOf (t z c : U16) : sizeField (windowOf t z c) = z := joinBytes_hi_lo z
@[simp] theorem crcField_windowOf (t z c : U16) : crcField (windowOf t z c) = c := joinBytes_hi_lo c

@[simp] theorem windowOf_fields (w : Window) : windowOf (typeField w) (sizeField w) (crcField w) = w := by
  simp [windowOf, typeField, sizeField, crcField]

@[simp] theorem windowOfWord_headerWordOf (w : Window) : windowOfWord (headerWordOf w) = w := by
  obtain ⟨a, b, c, d, e, f⟩ := w
  simp only [windowOfWord, headerWordOf, Window.mk.injEq]
  refine ⟨?_, ?_, ?_, ?_, ?_, ?_⟩ <;>
  · apply BitVec.eq_of_getLsbD_eq; intro i hi
    simp only [BitVec.getLsbD_extractLsb', BitVec.getLsbD_append]
    interval_cases i <;> simp

@[simp] theorem headerWordOf_windowOfWord (h : HeaderWord) : headerWordOf (windowOfWord h) = h := by
  apply BitVec.eq_of_getLsbD_eq; intro i hi
  simp only [windowOfWord, headerWordOf, BitVec.getLsbD_extractLsb', BitVec.getLsbD_append]
  interval_cases i <;> simp

@[simp] theorem evClosed_eventWord (c v : Bool) (d : Byte) : evClosed (eventWord c v d) = c := by
  rw [evClosed, eventWord_bit]; cases c <;> rfl

@[simp] theorem evValid_eventWord (c v : Bool) (d : Byte) : evValid (eventWord c v d) = v := by
  rw [evValid, eventWord_bit]; cases v <;> rfl

@[simp] theorem evData_eventWord (c v : Bool) (d : Byte) : evData (eventWord c v d) = d := by
  apply BitVec.eq_of_getLsbD_eq; intro i hi
  simp only [evData, BitVec.getLsbD_extractLsb', eventWord_bit]
  simp [hi]

@[simp] theorem evClosed_closedWord (x : BitVec 9) : evClosed (closedWord x) = true := by
  rw [evClosed, closedWord_bit]; rfl

@[simp] theorem evBelowClosed_closedWord (x : BitVec 9) : evBelowClosed (closedWord x) = x := by
  apply BitVec.eq_of_getLsbD_eq; intro i hi
  simp only [evBelowClosed, BitVec.getLsbD_extractLsb', closedWord_bit]
  simp [hi]

theorem eventWord_fields (w : EventWord) : eventWord (evClosed w) (evValid w) (evData w) = w := by
  apply BitVec.eq_of_getLsbD_eq; intro i hi
  simp only [eventWord, evClosed, evValid, evData, BitVec.getLsbD_append, BitVec.getLsbD_extractLsb']
  interval_cases i <;> simp

theorem closedWord_fields (w : EventWord) (h : evClosed w = true) : closedWord (evBelowClosed w) = w := by
  apply BitVec.eq_of_getLsbD_eq; intro i hi
  simp only [evClosed] at h
  simp only [closedWord, evBelowClosed, BitVec.getLsbD_append, BitVec.getLsbD_extractLsb']
  interval_cases i <;> simp [h]

/-- The bytes of a header, its fields' bytes in wire order. -/
theorem crcSpan_windowOf (t z c : U16) :
    crcSpan (windowOf t z c) = [hiByte t, loByte t, hiByte z, loByte z] := rfl

end Sys2Proof.Machine
end

