-- ==== Sys2Proof/Laws/Memory.lean ====
section
/-! SUPPORT. The laws of the payload buffer: read after write, every other cell unchanged, and the canonical form kept. -/

namespace Sys2Proof.Machine

theorem lookup_nil (i : Nat) : Memory.lookup [] i = none := rfl

theorem lookup_cons (c : Host.Cell) (m : Memory) (i : Nat) :
    Memory.lookup (c :: m) i = if c.1 = i then some c.2 else Memory.lookup m i := by
  by_cases h : c.1 = i <;> simp [Memory.lookup, h]

theorem lookup_write_self (m : Memory) (i : Nat) (b : Byte) : (m.write i b).lookup i = some b := by
  induction m with
  | nil => simp [Memory.write, lookup_cons]
  | cons c rest ih =>
    simp only [Memory.write]
    split
    · simp [lookup_cons]
    · split
      · simp [lookup_cons]
      · next h1 h2 => rw [lookup_cons, if_neg (fun h => h2 h.symm)]; exact ih

theorem lookup_write_other (m : Memory) (i j : Nat) (b : Byte) (h : j ≠ i) :
    (m.write i b).lookup j = m.lookup j := by
  induction m with
  | nil => simp [Memory.write, lookup_cons, lookup_nil, Ne.symm h]
  | cons c rest ih =>
    simp only [Memory.write]
    split
    · rw [lookup_cons, if_neg (Ne.symm h)]
    · split
      · next h2 => rw [lookup_cons, lookup_cons, if_neg (Ne.symm h), if_neg (h2 ▸ Ne.symm h)]
      · rw [lookup_cons, lookup_cons, ih]

/-- What a read answers after a write. -/
theorem read_write (m : Memory) (i j : Nat) (b : Byte) :
    (m.write i b).read j = if j = i then b else m.read j := by
  by_cases h : j = i
  · subst h; simp [Memory.read, lookup_write_self]
  · simp [Memory.read, lookup_write_other m i j b h, h]

/-- Every cell of a buffer after a write is the cell written or a cell from before. -/
theorem mem_write (m : Memory) (i : Nat) (b : Byte) (c : Host.Cell) (h : c ∈ m.write i b) :
    c = (i, b) ∨ c ∈ m := by
  induction m with
  | nil => left; simpa [Memory.write] using h
  | cons a rest ih =>
    simp only [Memory.write] at h
    split at h
    · simpa using h
    · split at h
      · rcases List.mem_cons.1 h with h | h
        · exact .inl h
        · exact .inr (List.mem_cons_of_mem _ h)
      · rcases List.mem_cons.1 h with h | h
        · exact .inr (h ▸ List.mem_cons_self)
        · exact (ih h).imp id (List.mem_cons_of_mem _)

theorem write_keeps_wf (m : Memory) (i : Nat) (b : Byte) (h : m.wf) : (m.write i b).wf := by
  induction m with
  | nil => simp [Memory.write, Memory.wf]
  | cons a rest ih =>
    obtain ⟨ha, hr⟩ := List.pairwise_cons.1 h
    simp only [Memory.write]
    split
    · next h1 =>
      refine List.pairwise_cons.2 ⟨fun c hc => ?_, h⟩
      rcases List.mem_cons.1 hc with hc | hc
      · exact hc ▸ h1
      · exact Nat.lt_trans h1 (ha c hc)
    · split
      · next h2 => exact List.pairwise_cons.2 ⟨fun c hc => h2 ▸ ha c hc, hr⟩
      · next h1 h2 =>
        refine List.pairwise_cons.2 ⟨fun c hc => ?_, ih hr⟩
        rcases mem_write rest i b c hc with hc | hc
        · subst hc; show a.1 < i; omega
        · exact ha c hc

/-! A store to a buffer of `cap` cells is a write to an index below `cap`, and nothing otherwise. -/

theorem storeCell_inside (m : Memory) {cap i : Nat} (b : Byte) (h : i < cap) : m.storeCell cap i b = m.write i b := if_pos h

theorem storeCell_outside (m : Memory) {cap i : Nat} (b : Byte) (h : cap ≤ i) : m.storeCell cap i b = m :=
  if_neg (Nat.not_lt.2 h)

theorem lookup_storeCell_other (m : Memory) (cap i j : Nat) (b : Byte) (h : j ≠ i) :
    (m.storeCell cap i b).lookup j = m.lookup j := by
  unfold Memory.storeCell; split
  · exact lookup_write_other m i j b h
  · rfl

/-- What a read answers after a store. -/
theorem read_storeCell (m : Memory) (cap i j : Nat) (b : Byte) :
    (m.storeCell cap i b).read j = if j = i ∧ i < cap then b else m.read j := by
  unfold Memory.storeCell; split
  · next h => simp [read_write, h]
  · next h => simp [h]

theorem storeCell_keeps_wf (m : Memory) (cap i : Nat) (b : Byte) (h : m.wf) : (m.storeCell cap i b).wf := by
  unfold Memory.storeCell; split
  · exact write_keeps_wf m i b h
  · exact h

theorem storeCell_keeps_range (m : Memory) (cap i : Nat) (b : Byte) (h : ∀ c ∈ m, c.1 < cap) :
    ∀ c ∈ m.storeCell cap i b, c.1 < cap := by
  unfold Memory.storeCell; split
  · next hi =>
    intro c hc
    rcases mem_write m i b c hc with rfl | hc
    · exact hi
    · exact h c hc
  · exact h

@[simp] theorem payloadPrefix_length (m : Memory) (n : Nat) : (payloadPrefix m n).length = n := by
  simp [payloadPrefix]

theorem payloadPrefix_getElem? (m : Memory) (n i : Nat) (h : i < n) : (payloadPrefix m n)[i]? = some (m.read i) := by
  simp [payloadPrefix, h]

@[simp] theorem payloadPrefix_zero (m : Memory) : payloadPrefix m 0 = [] := rfl

theorem payloadPrefix_succ (m : Memory) (n : Nat) : payloadPrefix m (n + 1) = payloadPrefix m n ++ [m.read n] := by
  simp [payloadPrefix, List.range_succ]

/-- A write at or above the prefix leaves it alone. -/
theorem payloadPrefix_write (m : Memory) (n i : Nat) (b : Byte) (h : n ≤ i) :
    payloadPrefix (m.write i b) n = payloadPrefix m n := by
  refine List.map_congr_left fun j hj => ?_
  have := List.mem_range.1 hj
  rw [read_write, if_neg (by omega)]

end Sys2Proof.Machine
end

