-- ==== Sys2Proof/Laws/State.lean ====
section
/-! SUPPORT. One lemma per field per state update, so that no later proof unfolds a record update. -/

namespace Sys2Proof.Machine

/-! `emit` -/
@[simp] theorem emit_st (log : LogCode) (d : Option DispatchRecord) (s : State) : (emit log d s).st = s.st := rfl
@[simp] theorem emit_win (log : LogCode) (d : Option DispatchRecord) (s : State) : (emit log d s).win = s.win := rfl
@[simp] theorem emit_hdrType (log : LogCode) (d : Option DispatchRecord) (s : State) : (emit log d s).hdrType = s.hdrType := rfl
@[simp] theorem emit_hdrSize (log : LogCode) (d : Option DispatchRecord) (s : State) : (emit log d s).hdrSize = s.hdrSize := rfl
@[simp] theorem emit_cnt (log : LogCode) (d : Option DispatchRecord) (s : State) : (emit log d s).cnt = s.cnt := rfl
@[simp] theorem emit_pbuf (log : LogCode) (d : Option DispatchRecord) (s : State) : (emit log d s).pbuf = s.pbuf := rfl
@[simp] theorem emit_maxPayload (log : LogCode) (d : Option DispatchRecord) (s : State) : (emit log d s).maxPayload = s.maxPayload := rfl
@[simp] theorem emit_input (log : LogCode) (d : Option DispatchRecord) (s : State) : (emit log d s).input = s.input := rfl
@[simp] theorem emit_out (log : LogCode) (d : Option DispatchRecord) (s : State) : (emit log d s).out = ⟨log, d⟩ := rfl

/-! `setWindow` -/
@[simp] theorem setWindow_st (w : Window) (s : State) : (setWindow w s).st = s.st := rfl
@[simp] theorem setWindow_win (w : Window) (s : State) : (setWindow w s).win = w := rfl
@[simp] theorem setWindow_hdrType (w : Window) (s : State) : (setWindow w s).hdrType = s.hdrType := rfl
@[simp] theorem setWindow_hdrSize (w : Window) (s : State) : (setWindow w s).hdrSize = s.hdrSize := rfl
@[simp] theorem setWindow_cnt (w : Window) (s : State) : (setWindow w s).cnt = s.cnt := rfl
@[simp] theorem setWindow_pbuf (w : Window) (s : State) : (setWindow w s).pbuf = s.pbuf := rfl
@[simp] theorem setWindow_maxPayload (w : Window) (s : State) : (setWindow w s).maxPayload = s.maxPayload := rfl
@[simp] theorem setWindow_input (w : Window) (s : State) : (setWindow w s).input = s.input := rfl
@[simp] theorem setWindow_out (w : Window) (s : State) : (setWindow w s).out = s.out := rfl

/-! `retainHeader` -/
@[simp] theorem retainHeader_st (t z : U16) (s : State) : (retainHeader t z s).st = .collecting := rfl
@[simp] theorem retainHeader_win (t z : U16) (s : State) : (retainHeader t z s).win = s.win := rfl
@[simp] theorem retainHeader_hdrType (t z : U16) (s : State) : (retainHeader t z s).hdrType = t := rfl
@[simp] theorem retainHeader_hdrSize (t z : U16) (s : State) : (retainHeader t z s).hdrSize = z := rfl
@[simp] theorem retainHeader_cnt (t z : U16) (s : State) : (retainHeader t z s).cnt = 0#16 := rfl
@[simp] theorem retainHeader_pbuf (t z : U16) (s : State) : (retainHeader t z s).pbuf = s.pbuf := rfl
@[simp] theorem retainHeader_maxPayload (t z : U16) (s : State) : (retainHeader t z s).maxPayload = s.maxPayload := rfl
@[simp] theorem retainHeader_input (t z : U16) (s : State) : (retainHeader t z s).input = s.input := rfl
@[simp] theorem retainHeader_out (t z : U16) (s : State) : (retainHeader t z s).out = s.out := rfl

/-! `returnToIdle` -/
@[simp] theorem returnToIdle_st (s : State) : (returnToIdle s).st = .idle := rfl
@[simp] theorem returnToIdle_win (s : State) : (returnToIdle s).win = s.win := rfl
@[simp] theorem returnToIdle_hdrType (s : State) : (returnToIdle s).hdrType = s.hdrType := rfl
@[simp] theorem returnToIdle_hdrSize (s : State) : (returnToIdle s).hdrSize = s.hdrSize := rfl
@[simp] theorem returnToIdle_cnt (s : State) : (returnToIdle s).cnt = s.cnt := rfl
@[simp] theorem returnToIdle_pbuf (s : State) : (returnToIdle s).pbuf = s.pbuf := rfl
@[simp] theorem returnToIdle_maxPayload (s : State) : (returnToIdle s).maxPayload = s.maxPayload := rfl
@[simp] theorem returnToIdle_input (s : State) : (returnToIdle s).input = s.input := rfl
@[simp] theorem returnToIdle_out (s : State) : (returnToIdle s).out = s.out := rfl

/-! `clearState` -/
@[simp] theorem clearState_st (s : State) : (clearState s).st = .idle := rfl
@[simp] theorem clearState_win (s : State) : (clearState s).win = zeroWindow := rfl
@[simp] theorem clearState_hdrType (s : State) : (clearState s).hdrType = 0#16 := rfl
@[simp] theorem clearState_hdrSize (s : State) : (clearState s).hdrSize = 0#16 := rfl
@[simp] theorem clearState_cnt (s : State) : (clearState s).cnt = 0#16 := rfl
@[simp] theorem clearState_pbuf (s : State) : (clearState s).pbuf = [] := rfl
@[simp] theorem clearState_maxPayload (s : State) : (clearState s).maxPayload = s.maxPayload := rfl
@[simp] theorem clearState_input (s : State) : (clearState s).input = s.input := rfl
@[simp] theorem clearState_out (s : State) : (clearState s).out = s.out := rfl

/-! `deliverFrame` -/
@[simp] theorem deliverFrame_st (s : State) : (deliverFrame s).st = .idle := rfl
@[simp] theorem deliverFrame_win (s : State) : (deliverFrame s).win = s.win := rfl
@[simp] theorem deliverFrame_hdrType (s : State) : (deliverFrame s).hdrType = s.hdrType := rfl
@[simp] theorem deliverFrame_hdrSize (s : State) : (deliverFrame s).hdrSize = s.hdrSize := rfl
@[simp] theorem deliverFrame_cnt (s : State) : (deliverFrame s).cnt = s.cnt := rfl
@[simp] theorem deliverFrame_pbuf (s : State) : (deliverFrame s).pbuf = s.pbuf := rfl
@[simp] theorem deliverFrame_maxPayload (s : State) : (deliverFrame s).maxPayload = s.maxPayload := rfl
@[simp] theorem deliverFrame_input (s : State) : (deliverFrame s).input = s.input := rfl
@[simp] theorem deliverFrame_out (s : State) : (deliverFrame s).out = ⟨.frameDone, some (heldFrame s)⟩ := rfl

/-! `abortFrame` -/
@[simp] theorem abortFrame_st (s : State) : (abortFrame s).st = .idle := rfl
@[simp] theorem abortFrame_win (s : State) : (abortFrame s).win = s.win := rfl
@[simp] theorem abortFrame_hdrType (s : State) : (abortFrame s).hdrType = s.hdrType := rfl
@[simp] theorem abortFrame_hdrSize (s : State) : (abortFrame s).hdrSize = s.hdrSize := rfl
@[simp] theorem abortFrame_cnt (s : State) : (abortFrame s).cnt = s.cnt := rfl
@[simp] theorem abortFrame_pbuf (s : State) : (abortFrame s).pbuf = s.pbuf := rfl
@[simp] theorem abortFrame_maxPayload (s : State) : (abortFrame s).maxPayload = s.maxPayload := rfl
@[simp] theorem abortFrame_input (s : State) : (abortFrame s).input = s.input := rfl
@[simp] theorem abortFrame_out (s : State) : (abortFrame s).out = ⟨.abortOversize, none⟩ := rfl

/-! `consume` -/
@[simp] theorem consume_st (s : State) : (consume s).st = s.st := rfl
@[simp] theorem consume_win (s : State) : (consume s).win = s.win := rfl
@[simp] theorem consume_hdrType (s : State) : (consume s).hdrType = s.hdrType := rfl
@[simp] theorem consume_hdrSize (s : State) : (consume s).hdrSize = s.hdrSize := rfl
@[simp] theorem consume_cnt (s : State) : (consume s).cnt = s.cnt := rfl
@[simp] theorem consume_pbuf (s : State) : (consume s).pbuf = s.pbuf := rfl
@[simp] theorem consume_maxPayload (s : State) : (consume s).maxPayload = s.maxPayload := rfl
@[simp] theorem consume_input (s : State) : (consume s).input = s.input.tail := rfl
@[simp] theorem consume_out (s : State) : (consume s).out = s.out := rfl

/-! `offer` -/
@[simp] theorem offer_st (p : PortSample) (s : State) : (offer p s).st = s.st := rfl
@[simp] theorem offer_win (p : PortSample) (s : State) : (offer p s).win = s.win := rfl
@[simp] theorem offer_hdrType (p : PortSample) (s : State) : (offer p s).hdrType = s.hdrType := rfl
@[simp] theorem offer_hdrSize (p : PortSample) (s : State) : (offer p s).hdrSize = s.hdrSize := rfl
@[simp] theorem offer_cnt (p : PortSample) (s : State) : (offer p s).cnt = s.cnt := rfl
@[simp] theorem offer_pbuf (p : PortSample) (s : State) : (offer p s).pbuf = s.pbuf := rfl
@[simp] theorem offer_maxPayload (p : PortSample) (s : State) : (offer p s).maxPayload = s.maxPayload := rfl
@[simp] theorem offer_input (p : PortSample) (s : State) : (offer p s).input = p :: s.input := rfl
@[simp] theorem offer_out (p : PortSample) (s : State) : (offer p s).out = s.out := rfl

/-! `offerHeader` -/
@[simp] theorem offerHeader_st (w : Window) (s : State) : (offerHeader w s).st = .idle := rfl
@[simp] theorem offerHeader_win (w : Window) (s : State) : (offerHeader w s).win = ⟨s.win.w0, w.w0, w.w1, w.w2, w.w3, w.w4⟩ := rfl
@[simp] theorem offerHeader_hdrType (w : Window) (s : State) : (offerHeader w s).hdrType = s.hdrType := rfl
@[simp] theorem offerHeader_hdrSize (w : Window) (s : State) : (offerHeader w s).hdrSize = s.hdrSize := rfl
@[simp] theorem offerHeader_cnt (w : Window) (s : State) : (offerHeader w s).cnt = s.cnt := rfl
@[simp] theorem offerHeader_pbuf (w : Window) (s : State) : (offerHeader w s).pbuf = s.pbuf := rfl
@[simp] theorem offerHeader_maxPayload (w : Window) (s : State) : (offerHeader w s).maxPayload = s.maxPayload := rfl
@[simp] theorem offerHeader_input (w : Window) (s : State) : (offerHeader w s).input = byteSample w.w5 :: s.input := rfl
@[simp] theorem offerHeader_out (w : Window) (s : State) : (offerHeader w s).out = s.out := rfl

/-! `architectural` -/
@[simp] theorem architectural_st (s : State) : (s.architectural).st = s.st := rfl
@[simp] theorem architectural_win (s : State) : (s.architectural).win = s.win := rfl
@[simp] theorem architectural_hdrType (s : State) : (s.architectural).hdrType = s.hdrType := rfl
@[simp] theorem architectural_hdrSize (s : State) : (s.architectural).hdrSize = s.hdrSize := rfl
@[simp] theorem architectural_cnt (s : State) : (s.architectural).cnt = s.cnt := rfl
@[simp] theorem architectural_pbuf (s : State) : (s.architectural).pbuf = s.pbuf := rfl
@[simp] theorem architectural_maxPayload (s : State) : (s.architectural).maxPayload = s.maxPayload := rfl
@[simp] theorem architectural_input (s : State) : (s.architectural).input = [] := rfl
@[simp] theorem architectural_out (s : State) : (s.architectural).out = Output.quiet := rfl

/-! `State.reset` -/
@[simp] theorem reset_st : State.reset.st = .idle := rfl
@[simp] theorem reset_win : State.reset.win = zeroWindow := rfl
@[simp] theorem reset_hdrType : State.reset.hdrType = 0#16 := rfl
@[simp] theorem reset_hdrSize : State.reset.hdrSize = 0#16 := rfl
@[simp] theorem reset_cnt : State.reset.cnt = 0#16 := rfl
@[simp] theorem reset_pbuf : State.reset.pbuf = [] := rfl
@[simp] theorem reset_maxPayload : State.reset.maxPayload = Config.maxPayload := rfl
@[simp] theorem reset_input : State.reset.input = [] := rfl
@[simp] theorem reset_out : State.reset.out = Output.quiet := rfl

/-- The free capacity is in the range R6 gives. -/
theorem config_maxPayload_pos : 1 ≤ Config.maxPayload.toNat := by
  have h := Config.maxPayloadLessOne.isLt
  simp only [Config.maxPayload, BitVec.toNat_ofNat]
  omega

end Sys2Proof.Machine
end

