-- ==== Sys2Proof/Laws/Ops.lean ====
section
/-! SUPPORT. One specification lemma per shared operation and per meaning, and for the step that it always answers and, in one
inversion lemma, everything it can do. -/

namespace Sys2Proof.Machine

/-- The count never wraps while the index is inside the buffer (R15, R52). -/
theorem cnt_succ_toNat {s : State} (h : s.cnt.toNat < s.maxPayload.toNat) : (s.cnt + 1#16).toNat = s.cnt.toNat + 1 := by
  have := s.maxPayload.isLt
  rw [BitVec.toNat_add]
  simp only [BitVec.toNat_ofNat]
  omega

theorem hdrValid_iff (w : Window) : hdrValid w = true ↔ typeField w ≠ 0#16 ∧ crc16 (crcSpan w) = crcField w := by
  simp [hdrValid, crcMatches]

/-- An Idle byte whose shifted window has type 0 (R63). -/
theorem execByteIdle_zeroType {b : Byte} {s : State} (hw : typeField (shiftIn s.win b) = 0#16) :
    execByteIdle b s = .next (emit .rejZeroType none (setWindow (shiftIn s.win b) s)) := if_pos hw

/-- An Idle byte whose shifted window has a nonzero type and a wrong crc (R64). -/
theorem execByteIdle_badCrc {b : Byte} {s : State} (hw : typeField (shiftIn s.win b) ≠ 0#16)
    (hc : crc16 (crcSpan (shiftIn s.win b)) ≠ crcField (shiftIn s.win b)) :
    execByteIdle b s = .next (emit .rejBadCrc none (setWindow (shiftIn s.win b) s)) :=
  (if_neg hw).trans (if_pos hc)

/-- An Idle byte whose shifted window is valid (R65). -/
theorem execByteIdle_accept {b : Byte} {s : State} (hv : hdrValid (shiftIn s.win b) = true) :
    execByteIdle b s = .next (emit .hdrAccept none (retainHeader (typeField (shiftIn s.win b)) (sizeField (shiftIn s.win b))
      (setWindow (shiftIn s.win b) s))) :=
  (if_neg ((hdrValid_iff _).1 hv).1).trans (if_neg (not_not.2 ((hdrValid_iff _).1 hv).2))

/-! The append (R71), one lemma per field. -/

@[simp] theorem appendByte_st (b : Byte) (s : State) : (appendByte b s).st = s.st := rfl
@[simp] theorem appendByte_win (b : Byte) (s : State) : (appendByte b s).win = s.win := rfl
@[simp] theorem appendByte_hdrType (b : Byte) (s : State) : (appendByte b s).hdrType = s.hdrType := rfl
@[simp] theorem appendByte_hdrSize (b : Byte) (s : State) : (appendByte b s).hdrSize = s.hdrSize := rfl
@[simp] theorem appendByte_cnt (b : Byte) (s : State) : (appendByte b s).cnt = s.cnt + 1#16 := rfl
@[simp] theorem appendByte_pbuf (b : Byte) (s : State) :
    (appendByte b s).pbuf = s.pbuf.storeCell s.maxPayload.toNat s.cnt.toNat b := rfl
@[simp] theorem appendByte_maxPayload (b : Byte) (s : State) : (appendByte b s).maxPayload = s.maxPayload := rfl
@[simp] theorem appendByte_input (b : Byte) (s : State) : (appendByte b s).input = s.input := rfl
@[simp] theorem appendByte_out (b : Byte) (s : State) : (appendByte b s).out = s.out := rfl

theorem oversize_appendByte {b : Byte} {s : State} :
    oversize (appendByte b s) = true ↔ s.maxPayload.toNat < s.hdrSize.toNat := decide_eq_true_iff

theorem frameComplete_appendByte {b : Byte} {s : State} :
    frameComplete (appendByte b s) = true ↔ s.hdrSize.toNat ≤ (s.cnt + 1#16).toNat := decide_eq_true_iff

/-- A Collecting byte of an oversize frame (R72). -/
theorem execByteCollecting_abort {b : Byte} {s : State} (ho : s.maxPayload.toNat < s.hdrSize.toNat) :
    execByteCollecting b s = .next (abortFrame (appendByte b s)) := if_pos (oversize_appendByte.2 ho)

/-- The Collecting byte that completes a frame (R73). -/
theorem execByteCollecting_done {b : Byte} {s : State} (ho : s.hdrSize.toNat ≤ s.maxPayload.toNat)
    (hn : s.hdrSize.toNat ≤ (s.cnt + 1#16).toNat) : execByteCollecting b s = .next (deliverFrame (appendByte b s)) :=
  (if_neg (by rw [oversize_appendByte]; omega)).trans (if_pos (frameComplete_appendByte.2 hn))

/-- A Collecting byte with more to come (R70). -/
theorem execByteCollecting_collect {b : Byte} {s : State} (ho : s.hdrSize.toNat ≤ s.maxPayload.toNat)
    (hn : (s.cnt + 1#16).toNat < s.hdrSize.toNat) :
    execByteCollecting b s = .next (emit .collect none (appendByte b s)) :=
  (if_neg (by rw [oversize_appendByte]; omega)).trans (if_neg (by rw [frameComplete_appendByte]; omega))

/-- Everything a Collecting byte can do. -/
theorem execByteCollecting_cases (b : Byte) (s : State) :
    (s.maxPayload.toNat < s.hdrSize.toNat ∧ execByteCollecting b s = .next (abortFrame (appendByte b s))) ∨
    (s.hdrSize.toNat ≤ s.maxPayload.toNat ∧ s.hdrSize.toNat ≤ (s.cnt + 1#16).toNat ∧
      execByteCollecting b s = .next (deliverFrame (appendByte b s))) ∨
    (s.hdrSize.toNat ≤ s.maxPayload.toNat ∧ (s.cnt + 1#16).toNat < s.hdrSize.toNat ∧
      execByteCollecting b s = .next (emit .collect none (appendByte b s))) := by
  by_cases ho : s.maxPayload.toNat < s.hdrSize.toNat
  · exact .inl ⟨ho, execByteCollecting_abort ho⟩
  · by_cases hn : s.hdrSize.toNat ≤ (s.cnt + 1#16).toNat
    · exact .inr (.inl ⟨by omega, hn, execByteCollecting_done (by omega) hn⟩)
    · exact .inr (.inr ⟨by omega, by omega, execByteCollecting_collect (by omega) (by omega)⟩)

/-- Everything an Idle byte can do. -/
theorem execByteIdle_cases (b : Byte) (s : State) :
    (typeField (shiftIn s.win b) = 0#16 ∧
      execByteIdle b s = .next (emit .rejZeroType none (setWindow (shiftIn s.win b) s))) ∨
    (typeField (shiftIn s.win b) ≠ 0#16 ∧ crc16 (crcSpan (shiftIn s.win b)) ≠ crcField (shiftIn s.win b) ∧
      execByteIdle b s = .next (emit .rejBadCrc none (setWindow (shiftIn s.win b) s))) ∨
    (hdrValid (shiftIn s.win b) = true ∧
      execByteIdle b s = .next (emit .hdrAccept none (retainHeader (typeField (shiftIn s.win b))
        (sizeField (shiftIn s.win b)) (setWindow (shiftIn s.win b) s)))) := by
  by_cases hw : typeField (shiftIn s.win b) = 0#16
  · exact .inl ⟨hw, execByteIdle_zeroType hw⟩
  · by_cases hc : crc16 (crcSpan (shiftIn s.win b)) = crcField (shiftIn s.win b)
    · have hv := (hdrValid_iff _).2 ⟨hw, hc⟩
      exact .inr (.inr ⟨hv, execByteIdle_accept hv⟩)
    · exact .inr (.inl ⟨hw, hc, execByteIdle_badCrc hw hc⟩)

/-- The sample is `BYTE(b)`. -/
def SamplesByte (p : PortSample) (b : Byte) : Prop := p.rst = false ∧ p.ev = eventWord false true b

/-- Everything a step can do, guards included. -/
inductive StepCase (s t : State) : Prop where
  | reset (hp : (nextSample s).rst = true) (ht : t = emit .noStep none (clearState (consume s)))
  | quiet (hp : samplesNoByte (nextSample s) = true) (ht : t = emit .noStep none (consume s))
  | zeroType (b : Byte) (hp : SamplesByte (nextSample s) b) (hs : s.st = .idle)
      (hw : typeField (shiftIn s.win b) = 0#16)
      (ht : t = emit .rejZeroType none (setWindow (shiftIn s.win b) (consume s)))
  | badCrc (b : Byte) (hp : SamplesByte (nextSample s) b) (hs : s.st = .idle)
      (hw : typeField (shiftIn s.win b) ≠ 0#16)
      (hc : crc16 (crcSpan (shiftIn s.win b)) ≠ crcField (shiftIn s.win b))
      (ht : t = emit .rejBadCrc none (setWindow (shiftIn s.win b) (consume s)))
  | accept (b : Byte) (hp : SamplesByte (nextSample s) b) (hs : s.st = .idle)
      (hv : hdrValid (shiftIn s.win b) = true)
      (ht : t = emit .hdrAccept none (retainHeader (typeField (shiftIn s.win b)) (sizeField (shiftIn s.win b))
        (setWindow (shiftIn s.win b) (consume s))))
  | collect (b : Byte) (hp : SamplesByte (nextSample s) b) (hs : s.st = .collecting)
      (ho : s.hdrSize.toNat ≤ s.maxPayload.toNat) (hn : (s.cnt + 1#16).toNat < s.hdrSize.toNat)
      (ht : t = emit .collect none (appendByte b (consume s)))
  | abort (b : Byte) (hp : SamplesByte (nextSample s) b) (hs : s.st = .collecting)
      (ho : s.maxPayload.toNat < s.hdrSize.toNat) (ht : t = abortFrame (appendByte b (consume s)))
  | done (b : Byte) (hp : SamplesByte (nextSample s) b) (hs : s.st = .collecting)
      (ho : s.hdrSize.toNat ≤ s.maxPayload.toNat) (hn : s.hdrSize.toNat ≤ (s.cnt + 1#16).toNat)
      (ht : t = deliverFrame (appendByte b (consume s)))

theorem SamplesByte.rst_eq {p : PortSample} {b : Byte} (h : SamplesByte p b) : p.rst = false := h.1

theorem SamplesByte.data_eq {p : PortSample} {b : Byte} (h : SamplesByte p b) : evData p.ev = b := by simp [h.2]

theorem SamplesByte.byte_eq {p : PortSample} {b : Byte} (h : SamplesByte p b) : samplesByte p = true := by
  simp [samplesByte, h.1, h.2]

theorem SamplesByte.noByte_eq {p : PortSample} {b : Byte} (h : SamplesByte p b) : samplesNoByte p = false := by
  simp [samplesNoByte, h.1, h.2]

theorem samplesByte_of_noByte {p : PortSample} (h : samplesNoByte p = true) : samplesByte p = false ∧ p.rst = false := by
  obtain ⟨r, e⟩ := p
  cases r <;> cases hc : evClosed e <;> cases hv : evValid e <;> simp_all [samplesNoByte, samplesByte]

theorem samplesByte_of_rst {p : PortSample} (h : p.rst = true) : samplesByte p = false ∧ samplesNoByte p = false := by
  simp [samplesByte, samplesNoByte, h]

/-- A sample is a reset, a byte, or neither. -/
theorem sample_cases (p : PortSample) :
    p.rst = true ∨ (∃ b, SamplesByte p b) ∨ samplesNoByte p = true := by
  obtain ⟨r, e⟩ := p
  cases r
  · right
    cases hc : evClosed e
    · cases hv : evValid e
      · right; simp [samplesNoByte, hc, hv]
      · left
        refine ⟨evData e, rfl, ?_⟩
        have := eventWord_fields e
        rw [hc, hv] at this; exact this.symm
    · right; simp [samplesNoByte, hc]
  · exact .inl rfl

theorem decodeSample_reset {st : FrameState} {p : PortSample} (h : p.rst = true) : decodeSample st p = .reset := by
  simp [decodeSample, h]

theorem decodeSample_byte {st : FrameState} {p : PortSample} {b : Byte} (h : SamplesByte p b) :
    decodeSample st p = match st with
      | .idle => .byteIdle b
      | .collecting => .byteCollecting b := by
  obtain ⟨h1, h2⟩ := h
  cases st <;> simp [decodeSample, decodeEvent, h1, h2]

/-- A step on a sample with no byte changes nothing but the output (R81, R82). -/
theorem step_noByte {s : State} (h : samplesNoByte (nextSample s) = true) :
    step s = .next (emit .noStep none (consume s)) := by
  simp only [samplesNoByte, Bool.and_eq_true, Bool.not_eq_true', Bool.or_eq_true] at h
  obtain ⟨h1, h2⟩ := h
  unfold step decodeSample decodeEvent
  rw [h1]
  rcases h2 with h2 | h2
  · simp [h2, exec, execClosed]
  · cases hc : evClosed (nextSample s).ev
    · simp [h2, exec, execNoData]
    · simp [exec, execClosed]

theorem step_reset {s : State} (h : (nextSample s).rst = true) :
    step s = .next (emit .noStep none (clearState (consume s))) := by
  rw [step, decodeSample_reset h]; rfl

theorem step_byte_idle {s : State} {b : Byte} (h : SamplesByte (nextSample s) b) (hs : s.st = .idle) :
    step s = execByteIdle b (consume s) := by
  rw [step, decodeSample_byte h, hs]; rfl

theorem step_byte_collecting {s : State} {b : Byte} (h : SamplesByte (nextSample s) b) (hs : s.st = .collecting) :
    step s = execByteCollecting b (consume s) := by
  rw [step, decodeSample_byte h, hs]; rfl

/-- Every step answers, and with one of the cases (R79, R85). -/
theorem step_total (s : State) : ∃ t, step s = .next t ∧ StepCase s t := by
  rcases sample_cases (nextSample s) with hp | ⟨b, hp⟩ | hp
  · exact ⟨_, step_reset hp, .reset hp rfl⟩
  · cases hs : s.st
    · rw [step_byte_idle hp hs]
      rcases execByteIdle_cases b (consume s) with ⟨hw, h⟩ | ⟨hw, hc, h⟩ | ⟨hv, h⟩
      · exact ⟨_, h, .zeroType b hp hs hw rfl⟩
      · exact ⟨_, h, .badCrc b hp hs hw hc rfl⟩
      · exact ⟨_, h, .accept b hp hs hv rfl⟩
    · rw [step_byte_collecting hp hs]
      rcases execByteCollecting_cases b (consume s) with ⟨ho, h⟩ | ⟨ho, hn, h⟩ | ⟨ho, hn, h⟩
      · exact ⟨_, h, .abort b hp hs ho rfl⟩
      · exact ⟨_, h, .done b hp hs ho hn rfl⟩
      · exact ⟨_, h, .collect b hp hs ho hn rfl⟩
  · exact ⟨_, step_noByte hp, .quiet hp rfl⟩

/-- The inversion lemma of the step. -/
theorem step_cases {s t : State} (h : step s = .next t) : StepCase s t := by
  obtain ⟨u, hu, hc⟩ := step_total s
  rw [hu] at h; cases h; exact hc

end Sys2Proof.Machine
end

