-- ==== Sys2Proof/Laws/PerInstr.lean ====
section
/-! SUPPORT. The family TableRow: the word the encoder gives an operation has the format, and matches the fixed bits, of its row of
spec/opcode_table.json. -/

namespace Sys2Proof.Laws.TableRow

open Sys2Proof Sys2Proof.Machine

/-- The word has the row's format and, masked as the table says, the row's fixed value; a header word decodes to its class. -/
def Statement : Instr → Prop
  | .reset => encode .reset = .pin 1#1
  | .closed x => ∃ w : EventWord, encode (.closed x) = .ev w ∧ w &&& 0x200#10 = 0x200#10
  | .byteIdle b => ∃ w : EventWord, encode (.byteIdle b) = .ev w ∧ w &&& 0x300#10 = 0x100#10
  | .byteCollecting b => ∃ w : EventWord, encode (.byteCollecting b) = .ev w ∧ w &&& 0x300#10 = 0x100#10
  | .noData x => ∃ w : EventWord, encode (.noData x) = .ev w ∧ w &&& 0x300#10 = 0x000#10
  | .hdrZero z c => ∃ h : HeaderWord, encode (.hdrZero z c) = .wh h ∧ h &&& 0xFFFF00000000#48 = 0#48
  | .hdrBadCrc t z c => ∃ h : HeaderWord, encode (.hdrBadCrc t z c) = .wh h ∧ windowOfWord h = windowOf t z c
  | .hdr t z c => ∃ h : HeaderWord, encode (.hdr t z c) = .wh h ∧ windowOfWord h = windowOf t z c

theorem reset : Statement .reset := rfl

theorem closed (x : BitVec 9) : Statement (.closed x) := by
  refine ⟨_, rfl, ?_⟩
  apply BitVec.eq_of_getLsbD_eq; intro i hi
  rw [BitVec.getLsbD_and, closedWord_bit]
  interval_cases i <;> simp

theorem byteIdle (b : Byte) : Statement (.byteIdle b) := by
  refine ⟨_, rfl, ?_⟩
  apply BitVec.eq_of_getLsbD_eq; intro i hi
  rw [BitVec.getLsbD_and, eventWord_bit]
  interval_cases i <;> simp

theorem byteCollecting (b : Byte) : Statement (.byteCollecting b) := byteIdle b

theorem noData (x : BitVec 8) : Statement (.noData x) := by
  refine ⟨_, rfl, ?_⟩
  apply BitVec.eq_of_getLsbD_eq; intro i hi
  rw [BitVec.getLsbD_and, eventWord_bit]
  interval_cases i <;> simp

theorem hdrZero (z c : U16) : Statement (.hdrZero z c) := by
  refine ⟨_, rfl, ?_⟩
  apply BitVec.eq_of_getLsbD_eq; intro i hi
  rw [BitVec.getLsbD_and]
  simp only [headerWordOf, windowOf, BitVec.getLsbD_append]
  interval_cases i <;> simp [hiByte, loByte]

theorem hdrBadCrc (t z c : U16) : Statement (.hdrBadCrc t z c) := ⟨_, rfl, windowOfWord_headerWordOf _⟩

theorem hdr (t z c : U16) : Statement (.hdr t z c) := ⟨_, rfl, windowOfWord_headerWordOf _⟩

end Sys2Proof.Laws.TableRow
end

