-- ==== Sys2Proof/Laws/Run.lean ====
section
/-! SUPPORT. Runs of several steps: a run of `m + n` steps is a run of `m` and then of `n`, and the same for its outputs. -/

namespace Sys2Proof.Machine

@[simp] theorem runFor_zero (s : State) : runFor 0 s = .next s := rfl
@[simp] theorem outputsFor_zero (s : State) : outputsFor 0 s = [] := rfl

theorem runFor_succ {s t : State} (k : Nat) (h : step s = .next t) : runFor (k + 1) s = runFor k t := by
  simp [runFor, h]

theorem outputsFor_succ {s t : State} (k : Nat) (h : step s = .next t) :
    outputsFor (k + 1) s = t.out :: outputsFor k t := by
  simp [outputsFor, h]

theorem runFor_add {s t : State} (m n : Nat) (h : runFor m s = .next t) : runFor (m + n) s = runFor n t := by
  induction m generalizing s with
  | zero => cases h; simp
  | succ m ih =>
    rw [Nat.succ_add]
    cases hs : step s with
    | next u => rw [runFor_succ _ hs] at h ⊢; exact ih h
    | fault f => simp [runFor, hs] at h
    | refused r => simp [runFor, hs] at h

theorem outputsFor_add {s t : State} (m n : Nat) (h : runFor m s = .next t) :
    outputsFor (m + n) s = outputsFor m s ++ outputsFor n t := by
  induction m generalizing s with
  | zero => cases h; simp
  | succ m ih =>
    rw [Nat.succ_add]
    cases hs : step s with
    | next u =>
      rw [runFor_succ _ hs] at h
      rw [outputsFor_succ _ hs, outputsFor_succ _ hs, ih h, List.cons_append]
    | fault f => simp [runFor, hs] at h
    | refused r => simp [runFor, hs] at h

/-- The byte at the head of the events to come is what the next step samples. -/
theorem samplesByte_head {s : State} {b : Byte} {rest : List PortSample} (h : s.input = byteSample b :: rest) :
    SamplesByte (nextSample s) b := by
  simp [nextSample, h, SamplesByte, byteSample]

end Sys2Proof.Machine
end

