-- ==== Sys2Proof/Tests/Slice0.lean ====
section
/-! SUPPORT. Small tests of the model against the words and vectors of spec/ (95_test_vectors.md, and the corner cases of the rules),
the refusals of WellFormed and of the decoder, and one witness for each statement that has hypotheses. -/

namespace Sys2Proof.Tests

open Sys2Proof Sys2Proof.Machine

/-! ## Helpers -/

/-- The reset state of a build with `MAX_PAYLOAD = m`, with the given events to come. -/
def start (m : U16) (l : List PortSample) : State := { State.reset with maxPayload := m, input := l }

/-- V-F1's start state: `st = IDLE`, `win = 11 00 08 00 15 6F`, `hdr_type = 0x1234`, `hdr_size = 7`, `cnt = 7`. -/
def vf1 (l : List PortSample) : State :=
  { start 64 l with win := ⟨0x11, 0x00, 0x08, 0x00, 0x15, 0x6F⟩, hdrType := 0x1234, hdrSize := 7, cnt := 7 }

/-- V-C1's start state: `st = COLLECTING`, `win = 00 08 00 03 1D 02`, `hdr_type = 0x0008`, `hdr_size = 3`. -/
def vc1 (c : U16) (m : Memory) (l : List PortSample) : State :=
  { start 64 l with
    st := .collecting, win := ⟨0x00, 0x08, 0x00, 0x03, 0x1D, 0x02⟩, hdrType := 0x0008, hdrSize := 3, cnt := c, pbuf := m }

/-- The state a step or an operation answers, if it answers one. -/
def nextOf : StepOutcome → Option State
  | .next s => some s
  | .fault _ => none
  | .refused _ => none

/-- The state after a step (the state before, if the step does not answer one). -/
def after (s : State) : State := (nextOf (step s)).getD s

theorem step_eq_after {s : State} (h : (nextOf (step s)).isSome = true) : step s = .next (after s) := by
  cases hs : step s <;> simp_all [nextOf, after]

/-! ## WellFormed refuses ill-formed operations -/

theorem test_wellFormed_refuses_badCrc_of_type_zero : (Instr.hdrBadCrc 0 5 0x1234).wellFormed = false := by decide
theorem test_wellFormed_refuses_badCrc_with_right_crc : (Instr.hdrBadCrc 0x0008 0x0015 0x6FF5).wellFormed = false := by
  decide +kernel
theorem test_wellFormed_refuses_hdr_of_type_zero : (Instr.hdr 0 5 0xD465).wellFormed = false := by decide +kernel
theorem test_wellFormed_refuses_hdr_with_wrong_crc : (Instr.hdr 0x0008 0x0015 0x6FF4).wellFormed = false := by
  decide +kernel

/-! ## Decoding: words written out from the encodings of R36 and R38, one for each row -/

theorem test_decode_reset : decodeTableWord 8 0b1 = some .reset := by decide
theorem test_decode_closed : decodeTableWord 16 0b1000000000 = some (.closed 0) := by decide
/-- V-E2: `0x3A5`, both bits set, is `CLOSED`. -/
theorem test_decode_closed_over_valid : decodeTableWord 16 0b1110100101 = some (.closed 0b110100101) := by decide
theorem test_decode_byteIdle : decodeTableWord 16 0b0100000001 = some (.byteIdle 0x01) := by decide
theorem test_decode_byteCollecting : decode .collecting (.ev 0b0111111111) = .ok (.byteCollecting 0xFF) := by decide
theorem test_decode_noData : decodeTableWord 16 0b0011111111 = some (.noData 0xFF) := by decide
/-- V-A4: `00 00 00 05 D4 65`. -/
theorem test_decode_hdrZero :
    decodeTableWord 48 0b000000000000000000000000000001011101010001100101 = some (.hdrZero 0x0005 0xD465) := by decide
/-- V-A4: `00 08 00 15 6F F4`. -/
theorem test_decode_hdrBadCrc :
    decodeTableWord 48 0b000000000000100000000000000101010110111111110100 = some (.hdrBadCrc 0x0008 0x0015 0x6FF4) := by
  decide +kernel
/-- V-A4: `00 08 00 15 6F F5`. -/
theorem test_decode_hdr :
    decodeTableWord 48 0b000000000000100000000000000101010110111111110101 = some (.hdr 0x0008 0x0015 0x6FF5) := by
  decide +kernel
theorem test_decodeHeaderBytes_takes_six :
    decodeHeaderBytes [0x00, 0x05, 0x00, 0x00, 0x6F, 0x30, 0xAA] = .ok (.hdr 0x0005 0 0x6F30, [0xAA]) := by decide +kernel

theorem test_reject_pinLow : decode .idle (.pin 0) = .error .pinLow := by decide
theorem test_reject_notSearching : decode .collecting (.wh 0x000800156FF5) = .error .notSearching := by decide
theorem test_reject_shortHeader : decodeHeaderBytes [0x00, 0x08, 0x00, 0x15, 0x6F] = .error .shortHeader := by decide
theorem test_reject_wordTooWide : tableCodeWord 16 0x400 = .error .wordTooWide := by decide
theorem test_reject_unknownWidth : tableCodeWord 32 0 = .error .unknownWidth := by decide

/-! ## The CRC (V-A1, V-A2, V-A3, V-A6) -/

theorem test_crcBitStep_feedback_from_top : crcBitStep 0x7FFF true = 0xEFDF := by decide
theorem test_crcBitStep_no_feedback : crcBitStep 0x1021 false = 0x2042 := by decide
theorem test_crcByteStep_mixed : crcByteStep 0x1234 0x56 = 0x3C40 := by decide +kernel
theorem test_crcByteStep_zero_acc : crcByteStep 0x0000 0x80 = 0x9188 := by decide +kernel
theorem test_crc16_size_max : crc16 [0x00, 0x01, 0xFF, 0xFF] = 0xAEFF := by decide +kernel
theorem test_undetected_four_bit_error : hdrValid ⟨0x88, 0x18, 0x80, 0x15, 0x6F, 0xF5⟩ = true := by decide +kernel
theorem test_crcTable_last_row : crcByteStepByTable 0xFF00 0x00 = 0x1EF0 := by decide +kernel

/-! ## One step: `BYTE` in `IDLE` (V-F1) -/

theorem test_byteIdle_accepts :
    (nextOf (step (vf1 [byteSample 0xF5]))).map (fun t => (t.st, t.win, t.hdrType, t.hdrSize, t.cnt, t.out.log)) =
      some (.collecting, ⟨0x00, 0x08, 0x00, 0x15, 0x6F, 0xF5⟩, 0x0008, 0x0015, 0, .hdrAccept) := by decide +kernel
theorem test_byteIdle_rejects_bad_crc :
    (nextOf (step (vf1 [byteSample 0xF4]))).map (fun t => (t.st, t.win, t.hdrType, t.hdrSize, t.cnt, t.out.log)) =
      some (.idle, ⟨0x00, 0x08, 0x00, 0x15, 0x6F, 0xF4⟩, 0x1234, 7, 7, .rejBadCrc) := by decide +kernel
/-- V-F1: type 0 and a crc mismatch both hold; type 0 is reported. -/
theorem test_hdrZero_reported_first :
    (nextOf (step { vf1 [byteSample 0x78] with win := ⟨0xAA, 0x00, 0x00, 0x12, 0x34, 0x56⟩ })).map (fun t => (t.win, t.out.log)) =
      some (⟨0x00, 0x00, 0x12, 0x34, 0x56, 0x78⟩, .rejZeroType) := by decide +kernel
theorem test_hdrBadCrc_keeps_header :
    (nextOf (exec (.hdrBadCrc 0x0008 0x0015 0x6FF4) (vf1 []))).map (fun t => (t.st, t.win.w5, t.hdrType, t.out.log)) =
      some (.idle, 0xF4, 0x1234, .rejBadCrc) := by decide
theorem test_hdr_retains_header :
    (nextOf (exec (.hdr 0x0008 0x0015 0x6FF5) (vf1 []))).map (fun t => (t.st, t.win.w5, t.hdrType, t.hdrSize, t.cnt)) =
      some (.collecting, 0xF5, 0x0008, 0x0015, 0) := by decide

/-! ## One step: `BYTE` in `COLLECTING` (V-C1, V-C3, V-C5) -/

theorem test_byteCollecting_collects :
    (nextOf (step (vc1 1 [(0, 0x01)] [byteSample 0xFF]))).map (fun t => (t.st, t.cnt, t.pbuf, t.out)) =
      some (.collecting, 2, [(0, 0x01), (1, 0xFF)], ⟨.collect, none⟩) := by decide
theorem test_byteCollecting_completes :
    (nextOf (step (vc1 2 [(0, 0x01), (1, 0x02)] [byteSample 0xFF]))).map (fun t => (t.st, t.cnt, t.out)) =
      some (.idle, 3, ⟨.frameDone, some ⟨0x0008, 3, [0x01, 0x02, 0xFF]⟩⟩) := by decide
theorem test_byteCollecting_size_equal_to_capacity_is_allowed :
    (nextOf (step { vc1 2 [(0, 0x01), (1, 0x02)] [byteSample 0xFF] with maxPayload := 3 })).map (fun t => t.out.log) =
      some .frameDone := by decide
theorem test_byteCollecting_aborts_oversize :
    (nextOf (step { vc1 0 [] [byteSample 0x01] with maxPayload := 2 })).map (fun t => (t.st, t.cnt, t.pbuf, t.out)) =
      some (.idle, 1, [(0, 0x01)], ⟨.abortOversize, none⟩) := by decide
theorem test_byteCollecting_zero_size_swallows :
    (nextOf (step { vc1 0 [] [byteSample 0x00] with hdrSize := 0 })).map (fun t => (t.st, t.cnt, t.out)) =
      some (.idle, 1, ⟨.frameDone, some ⟨0x0008, 0, []⟩⟩) := by decide
/-- A count that is no index of the buffer, which no run reaches: the step goes on (R79), stores nothing and counts. -/
theorem test_byteCollecting_outside_goes_on :
    (nextOf (step { vc1 64 [(0, 0x01)] [byteSample 0x02] with hdrSize := 65 })).map (fun t => (t.st, t.cnt, t.pbuf, t.out)) =
      some (.idle, 65, [(0, 0x01)], ⟨.abortOversize, none⟩) := by decide

/-! ## One step: the other events (V-C1, V-E3, V-E4) -/

theorem test_noData_keeps_frame :
    (nextOf (step (vc1 1 [(0, 0x01)] [noDataSample]))).map (fun t => (t.st, t.cnt, t.pbuf, t.out.log)) =
      some (.collecting, 1, [(0, 0x01)], .noStep) := by decide
theorem test_closed_keeps_frame :
    (nextOf (step (vc1 1 [(0, 0x01)] [closedSample]))).map (fun t => (t.st, t.cnt, t.pbuf, t.out.log)) =
      some (.collecting, 1, [(0, 0x01)], .noStep) := by decide
theorem test_reset_mid_frame :
    (nextOf (step (vc1 1 [(0, 0x01)] [resetSample]))).map (fun t => (t.st, t.win, t.cnt, t.pbuf)) =
      some (.idle, zeroWindow, 0, []) := by decide
/-- V-E4: `rst = 1` with `ev = 0x1AB`. -/
theorem test_reset_over_byte :
    (nextOf (step (vf1 [⟨true, 0x1AB⟩]))).map (fun t => (t.win, t.out.log, t.input)) = some (zeroWindow, .noStep, []) := by decide

/-! ## The buffer, the stimulus notation, the placed word -/

theorem test_memory_write_keeps_order : Memory.write [(0, 1), (2, 3)] 1 9 = [(0, 1), (1, 9), (2, 3)] := by decide
theorem test_memory_write_replaces : Memory.write [(0, 1), (2, 3)] 2 9 = [(0, 1), (2, 9)] := by decide
/-- R40: `mk_header(0x0008, 0x0015) = 00 08 00 15 6F F5`. -/
theorem test_mkHeader : mkHeader 0x0008 0x0015 = some ⟨0x00, 0x08, 0x00, 0x15, 0x6F, 0xF5⟩ := by decide +kernel
/-- V-C2's bytes: `FRAME 0x0001, 00 09` of two payload bytes, `00 01 00 02 93 B2`. -/
theorem test_frame_expands : expandLine (.frame 0x0001 [0x00, 0x09]) =
    some ([0x00, 0x01, 0x00, 0x02, 0x93, 0xB2, 0x00, 0x09].map byteSample) := by decide +kernel
theorem test_placed_header_runs_next :
    (nextOf (step (State.reset.withFetchWord 48 0x000800156FF5))).map (fun t => (t.st, t.hdrType, t.out.log)) =
      some (.collecting, 0x0008, .hdrAccept) := by decide +kernel
theorem test_step_with_no_event_is_noData : step State.reset = exec (.noData 0) State.reset := by
  exact step_noByte (s := State.reset) rfl

/-! ## Witnesses: every statement's hypotheses are met together -/

theorem witness_EventWordDecodesByPriority :
    (∃ w : EventWord, w.getLsbD 9 = true ∧ w.getLsbD 8 = true) ∧
    (∃ w : EventWord, w.getLsbD 9 = false ∧ w.getLsbD 8 = true) ∧
    (∃ w : EventWord, w.getLsbD 9 = false ∧ w.getLsbD 8 = false) :=
  ⟨⟨0x3A5, by decide⟩, ⟨0x1FF, by decide⟩, ⟨0x0FF, by decide⟩⟩

theorem witness_DecodeOfEncodeIsTheOperation :
    (∀ i ∈ [Instr.reset, .closed 0x1FF, .byteIdle 0xFF, .noData 0, .hdrZero 5 0xD465, .hdrBadCrc 8 0x15 0x6FF4,
      .hdr 8 0x15 0x6FF5], i.wellFormed = true ∧ i.selectedIn .idle = true) ∧
    (Instr.byteCollecting 0xFF).wellFormed = true ∧ (Instr.byteCollecting 0xFF).selectedIn .collecting = true := by
  decide +kernel

theorem witness_EncodeOfDecodeIsTheWord :
    decode .idle (.pin 1) = .ok .reset ∧ decode .collecting (.ev 0x1FF) = .ok (.byteCollecting 0xFF) ∧
    decode .idle (.wh 0) = .ok (.hdrZero 0 0) := by decide

theorem witness_HeaderClassesPartitionAllWindows :
    (∃ w : Window, typeField w = 0#16) ∧
    (∃ w : Window, typeField w ≠ 0#16 ∧ crc16 [w.w0, w.w1, w.w2, w.w3] ≠ crcField w) ∧
    (∃ w : Window, typeField w ≠ 0#16 ∧ crc16 [w.w0, w.w1, w.w2, w.w3] = crcField w) :=
  ⟨⟨zeroWindow, by decide⟩, ⟨⟨0x00, 0x08, 0x00, 0x15, 0x6F, 0xF4⟩, by decide +kernel⟩,
    ⟨⟨0xFF, 0xFF, 0x00, 0x01, 0x10, 0x21⟩, by decide +kernel⟩⟩

theorem witness_ValidHeadersAreExactlyTheBuiltOnes :
    (∃ w : Window, hdrValid w = true) ∧ (∃ t : U16, t ≠ 0#16) ∧ (0xFFFF#16 ≠ 0#16) :=
  ⟨⟨⟨0x00, 0x05, 0x00, 0x00, 0x6F, 0x30⟩, by decide +kernel⟩, ⟨1, by decide⟩, by decide⟩

/-- The clauses of PseudoInstructionsExpand at the ends of their ranges: no payload, the longest payload, type 0. -/
theorem witness_PseudoInstructionsExpand :
    (∃ (t : U16) (p : List Byte), t ≠ 0#16 ∧ p.length = 0 ∧ p.length < 65536) ∧
    (∃ (t : U16) (p : List Byte), t ≠ 0#16 ∧ p.length = 65535 ∧ p.length < 65536) ∧
    expandLine (.hdr 0 0xFFFF) = none ∧ expandLine (.frame 0 [0x01]) = none :=
  ⟨⟨0x0005, [], by decide, rfl, by decide⟩,
    ⟨0xFFFF, List.replicate 65535 0x00, by decide, List.length_replicate, by rw [List.length_replicate]; decide⟩,
    rfl, rfl⟩

theorem witness_CrcBitStepShiftsAndFeedsBack : ∃ i j : Nat, i = 0 ∧ j = 15 ∧ i < 16 ∧ j < 16 := ⟨0, 15, by decide⟩

theorem witness_ByteTableComputesTheByteStep : ∃ i j : Nat, i = 0 ∧ j = 255 ∧ i < 256 ∧ j < 256 := ⟨0, 255, by decide⟩

theorem witness_CrcIsLinearInTheBytes : ∃ m e : List Byte, m.length = e.length ∧ m ≠ e :=
  ⟨[0x00, 0x08, 0x00, 0x15], [0x88, 0x10, 0x80, 0x00], by decide⟩

theorem witness_CorruptionPassesByItsPatternAlone : ∃ w : Window, hdrValid w = true :=
  ⟨⟨0x00, 0x08, 0x00, 0x15, 0x6F, 0xF5⟩, by decide +kernel⟩

theorem witness_OneToThreeBitErrorsAreDetected :
    hdrValid (windowOfWord 0x000800031D02) = true ∧
    ∀ ps ∈ [[(0 : Fin 48)], [0, 47], [0, 1, 2]], ps.Nodup ∧ 1 ≤ ps.length ∧ ps.length ≤ 3 := by decide +kernel

theorem witness_BurstErrorsAreDetected :
    hdrValid (windowOfWord 0x000800031D02) = true ∧ (0xFFFF#16 ≠ 0#16) ∧ (0 ≤ 32 ∧ 32 ≤ 32) := by decide +kernel

theorem witness_ResetClearsTheState : ∃ s t : State, exec .reset s = .next t ∧ s.cnt = 1 :=
  ⟨vc1 1 [(0, 0x01)] [], _, rfl, rfl⟩

theorem witness_ClosedChangesNothing : ∃ (x : BitVec 9) (s t : State), exec (.closed x) s = .next t ∧ s.st = .collecting :=
  ⟨0x1FF, vc1 1 [(0, 0x01)] [], _, rfl, rfl⟩

theorem witness_NoDataChangesNothing : ∃ (x : BitVec 8) (s t : State), exec (.noData x) s = .next t ∧ s.st = .collecting :=
  ⟨0xFF, vc1 1 [(0, 0x01)] [], _, rfl, rfl⟩

theorem witness_EventsWithoutByteCanBeRemoved : samplesNoByte noDataSample = true ∧ samplesNoByte ⟨false, 0x3A5⟩ = true := by
  decide

theorem witness_IdleByteRejectsTypeZero :
    ∃ (s : State) (b : Byte), s.st = .idle ∧ typeField ⟨s.win.w1, s.win.w2, s.win.w3, s.win.w4, s.win.w5, b⟩ = 0#16 :=
  ⟨start 64 [], 0x65, by decide⟩

theorem witness_IdleByteRejectsBadCrc :
    ∃ (s : State) (b : Byte), s.st = .idle ∧ typeField ⟨s.win.w1, s.win.w2, s.win.w3, s.win.w4, s.win.w5, b⟩ ≠ 0#16 ∧
      crc16 [s.win.w1, s.win.w2, s.win.w3, s.win.w4] ≠ joinBytes s.win.w5 b :=
  ⟨vf1 [], 0xF4, by decide +kernel⟩

theorem witness_IdleByteAcceptsValidHeader :
    ∃ (s : State) (b : Byte), s.st = .idle ∧ hdrValid ⟨s.win.w1, s.win.w2, s.win.w3, s.win.w4, s.win.w5, b⟩ = true :=
  ⟨vf1 [], 0xF5, by decide +kernel⟩

theorem witness_HeaderRowsTakeTheirEffect :
    (vf1 []).st = .idle ∧ (Instr.hdrBadCrc 0x0008 0x0015 0x6FF4).wellFormed = true ∧
    (Instr.hdr 0x0001 0xFFFF 0xAEFF).wellFormed = true := by decide +kernel

theorem witness_IdleByteRunsTheHeaderItSpells : ∃ s : State, s.st = .idle := ⟨vf1 [], rfl⟩

theorem witness_IdleRowsLeaveTheRestAlone :
    ∃ (i : Instr) (s t : State), s.st = .idle ∧ i.selectedIn .idle = true ∧ i.selectedIn .collecting = false ∧
      exec i s = .next t ∧ t.out.log ≠ .hdrAccept :=
  ⟨.hdrBadCrc 0x0008 0x0015 0x6FF4, vf1 [], _, rfl, rfl, rfl, rfl, by decide⟩

theorem witness_CollectingByteIsAppended :
    ∃ s : State, s.st = .collecting ∧ s.cnt.toNat < s.maxPayload.toNat ∧ s.hdrSize.toNat ≤ s.maxPayload.toNat ∧
      s.cnt.toNat + 1 < s.hdrSize.toNat :=
  ⟨{ vc1 1 [(0, 0x01)] [] with maxPayload := 3 }, by decide⟩

theorem witness_OversizeFrameIsAborted :
    ∃ s : State, s.st = .collecting ∧ s.cnt.toNat < s.maxPayload.toNat ∧ s.maxPayload.toNat < s.hdrSize.toNat :=
  ⟨{ vc1 0 [] [] with maxPayload := 2 }, by decide⟩

theorem witness_OversizeFrameIsAborted_in_a_step :
    (∃ s t : State, Invariant s ∧ step s = .next t ∧ t.out.log = .abortOversize) ∧
    (∃ s t : State, s.maxPayload = 0xFFFF ∧ step s = .next t ∧ t.out.log = .collect) := by
  refine ⟨⟨{ vc1 0 [] [byteSample 0x01] with maxPayload := 2 }, _, ?_, step_eq_after (by decide), by decide⟩,
    ⟨{ vc1 0 [] [byteSample 0x01] with maxPayload := 0xFFFF }, _, rfl, step_eq_after (by decide), by decide⟩⟩
  exact { capacity := by decide, typeNonzero := fun _ => (by decide : 0x0008#16 ≠ 0#16)
          headerHeld := fun _ => ⟨by decide, by decide, (by decide +kernel : hdrValid ⟨0x00, 0x08, 0x00, 0x03, 0x1D, 0x02⟩ = true)⟩
          countInBuffer := fun _ => ⟨by decide, by decide⟩, countBounded := by decide, bufferForm := by decide
          bufferRange := by decide, cellsHeld := fun _ => by decide }

theorem witness_CompletedFrameIsDispatched :
    ∃ s : State, s.st = .collecting ∧ s.cnt.toNat < s.maxPayload.toNat ∧ s.hdrSize.toNat ≤ s.maxPayload.toNat ∧
      s.hdrSize.toNat ≤ s.cnt.toNat + 1 :=
  ⟨{ vc1 2 [(0, 0x01), (1, 0x02)] [] with maxPayload := 3 }, by decide⟩

/-- The second clause of CompletedFrameIsDispatched: V-F5's header of size 1 at its only payload byte. -/
theorem witness_CompletedFrameIsDispatched_in_a_step :
    ∃ s t : State, Invariant s ∧ s.st = .collecting ∧ 1 ≤ s.hdrSize.toNat ∧ samplesByte (nextSample s) = true ∧
      step s = .next t ∧ s.hdrSize.toNat ≤ s.maxPayload.toNat := by
  refine ⟨{ vc1 0 [] [byteSample 0x77] with
      win := ⟨0x03, 0xA6, 0x00, 0x01, 0x00, 0x01⟩, hdrType := 0x03A6, hdrSize := 1, maxPayload := 1 }, _, ?_,
    rfl, by decide, by decide, step_eq_after (by decide), by decide⟩
  exact { capacity := by decide, typeNonzero := fun _ => (by decide : 0x03A6#16 ≠ 0#16)
          headerHeld := fun _ => ⟨by decide, by decide, (by decide +kernel : hdrValid ⟨0x03, 0xA6, 0x00, 0x01, 0x00, 0x01⟩ = true)⟩
          countInBuffer := fun _ => ⟨by decide, by decide⟩, countBounded := by decide, bufferForm := by decide
          bufferRange := by decide, cellsHeld := fun _ => by decide }

theorem witness_ZeroSizeFrameSwallowsOneByte :
    ∃ (s : State) (b : Byte), s.st = .idle ∧ 1 ≤ s.maxPayload.toNat ∧ hdrValid (shiftIn s.win b) = true ∧
      sizeField (shiftIn s.win b) = 0#16 :=
  ⟨{ start 1 [] with win := ⟨0x00, 0x00, 0x05, 0x00, 0x00, 0x6F⟩ }, 0x30, by decide +kernel⟩

/-- The first clause's premises are met by witness_invariant_collecting; the second's at the last cell of the buffer. -/
theorem witness_CollectingByteStoresOneCellOnly :
    ∃ s : State, s.st = .collecting ∧ s.cnt.toNat < s.maxPayload.toNat ∧ s.cnt.toNat + 1 = s.maxPayload.toNat :=
  ⟨{ vc1 2 [(0, 0x01), (1, 0x02)] [] with maxPayload := 3 }, by decide⟩

theorem witness_PayloadBytesAreNotExamined :
    ∃ (s t u : State) (b c : Byte), exec (.byteCollecting b) s = .next t ∧ exec (.byteCollecting c) s = .next u ∧ b ≠ c :=
  ⟨vc1 1 [(0, 0x01)] [], _, _, 0x00, 0xFF, rfl, rfl, by decide⟩

/-- Each clause at a boundary: the first index outside the buffer, and the count of 65535 that becomes 0 with a size of 0 or 1. -/
theorem witness_AppendOutsideTheBufferStoresNothing :
    (∃ s : State, s.st = .collecting ∧ s.maxPayload.toNat ≤ s.cnt.toNat ∧ s.maxPayload.toNat < s.hdrSize.toNat) ∧
    (∃ s : State, s.st = .collecting ∧ s.maxPayload.toNat = s.cnt.toNat ∧ s.hdrSize.toNat ≤ s.maxPayload.toNat ∧
      s.hdrSize.toNat ≤ (s.cnt + 1#16).toNat) ∧
    (∃ s : State, s.st = .collecting ∧ s.maxPayload.toNat ≤ s.cnt.toNat ∧ s.hdrSize.toNat ≤ s.maxPayload.toNat ∧
      s.hdrSize.toNat ≤ (s.cnt + 1#16).toNat ∧ s.cnt = 65535#16) ∧
    (∃ s : State, s.st = .collecting ∧ s.maxPayload.toNat ≤ s.cnt.toNat ∧ s.hdrSize.toNat ≤ s.maxPayload.toNat ∧
      (s.cnt + 1#16).toNat < s.hdrSize.toNat) :=
  ⟨⟨{ vc1 64 [] [] with hdrSize := 65 }, by decide⟩, ⟨vc1 64 [] [], by decide⟩,
    ⟨{ vc1 0xFFFF [] [] with hdrSize := 0 }, by decide⟩, ⟨{ vc1 0xFFFF [] [] with hdrSize := 1 }, by decide⟩⟩

/-- The last cell of the buffer, and the first index that is none. -/
theorem witness_PayloadCellsReadBack :
    ∃ (m : Memory) (cap i j : Nat), m.wf ∧ (∀ c ∈ m, c.1 < cap) ∧ i < cap ∧ i + 1 = cap ∧ cap ≤ j ∧ j = cap ∧ j ≠ i :=
  ⟨[(0, 0x01), (1, 0x02)], 3, 2, 3, by decide⟩

theorem witness_StepTakesOneEventByPriority :
    (∃ s : State, s.input = [⟨true, 0x1AB⟩]) ∧ (∃ s : State, s.input = [⟨false, 0x3A5⟩] ∧ (0x3A5 : EventWord).getLsbD 9 = true) ∧
    (∃ s : State, s.input = [⟨false, 0x1FF⟩] ∧ s.st = .idle ∧ (0x1FF : EventWord).getLsbD 9 = false ∧
      (0x1FF : EventWord).getLsbD 8 = true) ∧
    (∃ s : State, s.input = [⟨false, 0x100⟩] ∧ s.st = .collecting ∧ (0x100 : EventWord).getLsbD 9 = false ∧
      (0x100 : EventWord).getLsbD 8 = true) ∧
    (∃ s : State, s.input = [⟨false, 0x0FF⟩] ∧ (0x0FF : EventWord).getLsbD 9 = false ∧ (0x0FF : EventWord).getLsbD 8 = false) :=
  ⟨⟨vf1 _, rfl⟩, ⟨vf1 _, rfl, by decide⟩, ⟨vf1 _, rfl, by decide⟩, ⟨vc1 1 [] _, rfl, by decide⟩, ⟨vf1 _, rfl, by decide⟩⟩

theorem witness_StepRunsTheDecodedOperation :
    (∃ (s : State) (p : PortSample) (rest : List PortSample), s.input = p :: rest) ∧ (∃ s : State, s.input = []) :=
  ⟨⟨vf1 [byteSample 0xF5], _, _, rfl⟩, ⟨State.reset, rfl⟩⟩

theorem witness_PlacedWordIsRunNext :
    tableCodeWord 48 0x000800156FF5 = .ok (.wh 0x000800156FF5) ∧
    decode .idle (.wh 0x000800156FF5) = .ok (.hdr 0x0008 0x0015 0x6FF5) ∧
    tableCodeWord 16 0x1FF = .ok (.ev 0x1FF) ∧ decode .collecting (.ev 0x1FF) = .ok (.byteCollecting 0xFF) := by
  decide +kernel

/-- A step of each kind answers a next state. This meets the hypothesis `step s = .next t`, and each clause's own, of the statements
DispatchExactlyWhenFrameDone, LogCodeSaysWhatTheStepDid, WindowChangesOnlyByShiftAndReset, RetainedHeaderIsHeld,
CountCountsPayloadBytes, EachByteGoesToOneStore, CapacityIsStatic, OnlyBytesOrResetEndAFrame and OutputPortsPresentTheDispatch: with
each log code, with reset, and on both sides of an acceptance. -/
theorem witness_steps_of_every_kind :
    (∃ s t : State, step s = .next t ∧ (nextSample s).rst = true ∧ s.st = .collecting) ∧
    (∃ s t : State, step s = .next t ∧ samplesNoByte (nextSample s) = true ∧ s.st = .collecting) ∧
    (∃ s t : State, step s = .next t ∧ t.out.log = .rejZeroType ∧ (nextSample s).rst = false) ∧
    (∃ s t : State, step s = .next t ∧ t.out.log = .rejBadCrc ∧ samplesByte (nextSample s) = true ∧ s.st = .idle) ∧
    (∃ s t : State, step s = .next t ∧ t.out.log = .hdrAccept ∧ (nextSample s).rst = false) ∧
    (∃ s t : State, step s = .next t ∧ t.out.log = .collect ∧ s.st = .collecting) ∧
    (∃ s t : State, step s = .next t ∧ t.out.log = .abortOversize ∧ s.st = .collecting ∧ t.st = .idle) ∧
    (∃ s t : State, step s = .next t ∧ t.out.log = .frameDone ∧ t.out.dispatch ≠ none ∧ s.st = .collecting) :=
  ⟨⟨vc1 1 [] [resetSample], _, step_eq_after (by decide), by decide⟩,
    ⟨vc1 1 [] [closedSample], _, step_eq_after (by decide), by decide⟩,
    ⟨start 64 [byteSample 0x08], _, step_eq_after (by decide), by decide +kernel⟩,
    ⟨vf1 [byteSample 0xF4], _, step_eq_after (by decide +kernel), by decide +kernel⟩,
    ⟨vf1 [byteSample 0xF5], _, step_eq_after (by decide +kernel), by decide +kernel⟩,
    ⟨vc1 1 [(0, 0x01)] [byteSample 0xFF], _, step_eq_after (by decide), by decide⟩,
    ⟨{ vc1 0 [] [byteSample 0x01] with maxPayload := 2 }, _, step_eq_after (by decide), by decide⟩,
    ⟨vc1 2 [(0, 0x01), (1, 0x02)] [byteSample 0xFF], _, step_eq_after (by decide), by decide⟩⟩

/-- V-C1's first state meets the invariants (the hypothesis of StepKeepsTheInvariants, the last clauses of
CountCountsPayloadBytes, and the first clause of CollectingByteStoresOneCellOnly). -/
theorem witness_invariant_collecting : Invariant (vc1 1 [(0, 0x01)] [byteSample 0xFF]) where
  capacity := by decide
  typeNonzero := by intro _; show 0x0008#16 ≠ 0#16; decide
  headerHeld := by
    intro _
    exact ⟨by decide, by decide, (by decide +kernel : hdrValid ⟨0x00, 0x08, 0x00, 0x03, 0x1D, 0x02⟩ = true)⟩
  countInBuffer := by intro _; exact ⟨by decide, by decide⟩
  countBounded := by decide
  bufferForm := by decide
  bufferRange := by decide
  cellsHeld := by intro _; decide

theorem witness_StepKeepsTheInvariants : ∃ s t : State, Invariant s ∧ step s = .next t ∧ t.out.log = .collect :=
  ⟨_, _, witness_invariant_collecting, step_eq_after (by decide), by decide⟩

theorem witness_DispatchCarriesAWholeFrame :
    ∃ (s t : State) (d : DispatchRecord), Invariant s ∧ step s = .next t ∧ t.out.dispatch = some d := by
  refine ⟨{ vc1 0 [] [byteSample 0x77] with
      win := ⟨0x03, 0xA6, 0x00, 0x01, 0x00, 0x01⟩, hdrType := 0x03A6, hdrSize := 1 }, _, ⟨0x03A6, 1, [0x77]⟩, ?_,
    step_eq_after (by decide), by decide⟩
  exact { capacity := by decide, typeNonzero := fun _ => (by decide : 0x03A6#16 ≠ 0#16)
          headerHeld := fun _ => ⟨by decide, by decide, (by decide +kernel : hdrValid ⟨0x03, 0xA6, 0x00, 0x01, 0x00, 0x01⟩ = true)⟩
          countInBuffer := fun _ => ⟨by decide, by decide⟩, countBounded := by decide, bufferForm := by decide
          bufferRange := by decide, cellsHeld := fun _ => by decide }

/-- After a dispatch: `NO_DATA`, a byte, `CLOSED`, and only then the second byte. -/
theorem witness_DispatchesAreAtLeastTwoBytesApart :
    ∃ (s t : State) (k : Nat), step s = .next t ∧ t.out.dispatch ≠ none ∧ k = 3 ∧
      ((t.input.take k).filter samplesByte).length = 1 ∧ t.input.length = 4 :=
  ⟨vc1 2 [(0, 0x01), (1, 0x02)] [byteSample 0xFF, noDataSample, byteSample 0x00, closedSample, byteSample 0x08], _, 3,
    step_eq_after (by decide), by decide⟩

/-- The example of R68: two byte steps after a dispatch the next header is accepted, and `k = 1` byte step is not enough. -/
theorem test_second_header_after_two_bytes :
    let s := { vc1 0 [] [byteSample 0x77, byteSample 0xA3, byteSample 0xD1] with
      win := ⟨0x03, 0xA6, 0x00, 0x01, 0x00, 0x01⟩, hdrType := 0x03A6, hdrSize := 1 }
    (outputsFor 3 s).map Output.log = [.frameDone, .rejBadCrc, .hdrAccept] := by decide +kernel

theorem witness_NothingIsRetainedBeforeAcceptance :
    ∃ s t : State, s.st = .idle ∧ s.hdrType = 0#16 ∧ s.hdrSize = 0#16 ∧ s.cnt = 0#16 ∧ step s = .next t ∧
      t.out.log ≠ .hdrAccept :=
  ⟨start 64 [byteSample 0x08], _, rfl, rfl, rfl, rfl, step_eq_after (by decide), by decide +kernel⟩

theorem witness_DeclaredPayloadIsDeliveredWhole :
    ∃ (s : State) (p : List Byte), s.st = .collecting ∧ s.cnt = 0#16 ∧ s.hdrSize.toNat = p.length ∧ 1 ≤ p.length ∧
      p.length ≤ s.maxPayload.toNat ∧ s.input = p.map byteSample ++ [closedSample] :=
  ⟨{ vc1 0 [] ([0x01, 0x02, 0x03].map byteSample ++ [closedSample]) with maxPayload := 3 }, [0x01, 0x02, 0x03], by decide⟩

/-- V-F3 whole: a fresh block, the corrupted header `01 02 00 03 BC 56`, and then the frame of type `0x0102` and size 2, with none of
the eleven windows before its sixth header byte valid. -/
theorem witness_FrameIsFoundAfterAnyGarbage :
    ∃ (s : State) (g p : List Byte) (t : U16) (rest : List PortSample), s.st = .idle ∧ t ≠ 0#16 ∧
      1 ≤ p.length ∧ p.length ≤ s.maxPayload.toNat ∧
      s.input = (g ++ windowBytes (builtHeader t (BitVec.ofNat 16 p.length)) ++ p).map byteSample ++ rest ∧
      NoFalseHeader s.win (g ++ (windowBytes (builtHeader t (BitVec.ofNat 16 p.length))).take 5) := by
  have hb : builtHeader 0x0102 (BitVec.ofNat 16 2) = ⟨0x01, 0x02, 0x00, 0x02, 0xBC, 0x56⟩ := by decide +kernel
  refine ⟨start 2 (([0x01, 0x02, 0x00, 0x03, 0xBC, 0x56] ++ windowBytes (builtHeader 0x0102 (BitVec.ofNat 16 2)) ++
      [0x11, 0x22]).map byteSample ++ [closedSample]), [0x01, 0x02, 0x00, 0x03, 0xBC, 0x56], [0x11, 0x22], 0x0102, [closedSample],
    rfl, by decide, by decide, by decide, rfl, ?_⟩
  show NoFalseHeader zeroWindow
    ([0x01, 0x02, 0x00, 0x03, 0xBC, 0x56] ++ (windowBytes (builtHeader 0x0102 (BitVec.ofNat 16 2))).take 5)
  rw [hb]
  intro k h1 h2
  have : ∀ k, k ≤ 11 → 1 ≤ k →
      hdrValid (windowAfter zeroWindow ([0x01, 0x02, 0x00, 0x03, 0xBC, 0x56, 0x01, 0x02, 0x00, 0x02, 0xBC].take k)) = false := by
    decide +kernel
  exact this k h2 h1

/-- P1's frame of type `0x0008` and size 3 in a build whose capacity it fills, with the reset state that meets the premises. -/
theorem witness_FirstFrameAfterResetIsDispatched :
    ∃ (m t : U16) (p : List Byte) (rest : List PortSample) (s : State), t ≠ 0#16 ∧ 1 ≤ p.length ∧ p.length ≤ m.toNat ∧
      hdrValid ⟨0x00, (builtHeader t (BitVec.ofNat 16 p.length)).w0, (builtHeader t (BitVec.ofNat 16 p.length)).w1,
        (builtHeader t (BitVec.ofNat 16 p.length)).w2, (builtHeader t (BitVec.ofNat 16 p.length)).w3,
        (builtHeader t (BitVec.ofNat 16 p.length)).w4⟩ = false ∧
      s = { State.reset with
        maxPayload := m
        input := (windowBytes (builtHeader t (BitVec.ofNat 16 p.length)) ++ p).map byteSample ++ rest } :=
  ⟨3, 0x0008, [0x01, 0x02, 0x03], [closedSample], _, by decide, by decide, by decide, by decide +kernel, rfl⟩

end Sys2Proof.Tests
end

section
/-! PROOFS. The window and the count (10_state.md R12, R15): what a step does to each of the two, by the kind of the sample it
takes, and the statements O42 and O44 about every step. -/

namespace Sys2Proof.Machine

theorem step_next_unique {s t u : State} (ht : step s = .next t) (hu : step s = .next u) : t = u :=
  Host.Outcome.next.inj (ht.symm.trans hu)

/-- The converse of `SamplesByte.byte_eq`. -/
theorem exists_samplesByte_of_byte {p : PortSample} (h : samplesByte p = true) : ∃ b, SamplesByte p b := by
  rcases sample_cases p with hr | hb | hn
  · simp [samplesByte_of_rst hr] at h
  · exact hb
  · simp [samplesByte_of_noByte hn] at h

/-- Whichever header row the shifted window spells, an Idle byte only shifts the window (R62). -/
theorem step_win_of_byte_idle {s t : State} {b : Byte} (h : step s = .next t) (hp : SamplesByte (nextSample s) b)
    (hs : s.st = .idle) : t.win = shiftIn s.win b := by
  rw [step_byte_idle hp hs] at h
  rcases execByteIdle_cases b (consume s) with ⟨_, hx⟩ | ⟨_, _, hx⟩ | ⟨_, hx⟩ <;> cases h.symm.trans hx <;> rfl

/-- Only an acceptance, of the three ends of an Idle byte, touches the count and the retained size (R63 to R65). -/
theorem step_cnt_of_byte_idle {s t : State} {b : Byte} (h : step s = .next t) (hp : SamplesByte (nextSample s) b)
    (hs : s.st = .idle) :
    (t.out.log = .hdrAccept ∧ t.cnt = 0#16) ∨
      (t.out.log ≠ .hdrAccept ∧ t.cnt = s.cnt ∧ t.hdrSize = s.hdrSize) := by
  rw [step_byte_idle hp hs] at h
  rcases execByteIdle_cases b (consume s) with ⟨_, hx⟩ | ⟨_, _, hx⟩ | ⟨_, hx⟩ <;> cases h.symm.trans hx
  · exact .inr ⟨nofun, rfl, rfl⟩
  · exact .inr ⟨nofun, rfl, rfl⟩
  · exact .inl ⟨rfl, rfl⟩

/-- The abort, the completion and the plain append differ in none of these fields: the append alone writes the count (R71). -/
theorem step_fields_of_byte_collecting {s t : State} {b : Byte} (h : step s = .next t)
    (hp : SamplesByte (nextSample s) b) (hs : s.st = .collecting) :
    t.win = s.win ∧ t.hdrSize = s.hdrSize ∧ t.cnt = s.cnt + 1#16 := by
  rw [step_byte_collecting hp hs] at h
  rcases execByteCollecting_cases b (consume s) with ⟨_, hx⟩ | ⟨_, _, hx⟩ | ⟨_, _, hx⟩ <;>
    cases h.symm.trans hx <;> exact ⟨rfl, rfl, rfl⟩

/-- Settles O42, by the kind of the sample and, for a byte, the framer state. -/
theorem windowChangesOnlyByShiftAndReset : Obligations.WindowChangesOnlyByShiftAndReset := by
  unfold Obligations.WindowChangesOnlyByShiftAndReset
  intro s t h
  rcases sample_cases (nextSample s) with hr | ⟨b, hb⟩ | hn
  · simp [step_next_unique h (step_reset hr), hr, zeroWindow]
  · cases hs : s.st
    · simp [step_win_of_byte_idle h hb hs, hb.rst_eq, hb.byte_eq, hb.data_eq, shiftIn]
    · simp [step_fields_of_byte_collecting h hb hs, hb.rst_eq]
  · simp [step_next_unique h (step_noByte hn), samplesByte_of_noByte hn]

/-- R65: an acceptance empties the payload buffer. -/
theorem step_cnt_of_hdrAccept {s t : State} (h : step s = .next t) (ha : t.out.log = .hdrAccept) : t.cnt = 0#16 := by
  cases step_cases h with
  | accept b hp hs hv ht => rw [ht]; rfl
  | _ => subst t; cases ha

theorem step_cnt_of_reset {s t : State} (h : step s = .next t) (hr : (nextSample s).rst = true) : t.cnt = 0#16 := by
  simp [step_next_unique h (step_reset hr)]

/-- R71: a Collecting byte with its index inside the buffer adds one to the count, without a wrap. -/
theorem step_cnt_toNat_of_byte_collecting {s t : State} (h : step s = .next t)
    (hb : samplesByte (nextSample s) = true) (hs : s.st = .collecting) (hi : s.cnt.toNat < s.maxPayload.toNat) :
    t.cnt.toNat = s.cnt.toNat + 1 := by
  obtain ⟨b, hb⟩ := exists_samplesByte_of_byte hb
  obtain ⟨-, -, hc⟩ := step_fields_of_byte_collecting h hb hs
  rw [hc, cnt_succ_toNat hi]

theorem step_cnt_of_byte_idle_not_accepted {s t : State} (h : step s = .next t)
    (hb : samplesByte (nextSample s) = true) (hs : s.st = .idle) (ha : t.out.log ≠ .hdrAccept) : t.cnt = s.cnt := by
  obtain ⟨b, hb⟩ := exists_samplesByte_of_byte hb
  rcases step_cnt_of_byte_idle h hb hs with ⟨ha', -⟩ | ⟨-, hc, -⟩
  · exact absurd ha' ha
  · exact hc

theorem step_cnt_of_noByte {s t : State} (h : step s = .next t) (hn : samplesNoByte (nextSample s) = true) :
    t.cnt = s.cnt := by
  simp [step_next_unique h (step_noByte hn)]

/-- I4 is kept (R22). The one step that raises the count starts with a count that I3 says is 0 or below the retained size. -/
theorem step_keeps_countBounded {s t : State} (hi : Invariant s) (h : step s = .next t) :
    t.cnt.toNat ≤ max t.hdrSize.toNat 1 := by
  rcases sample_cases (nextSample s) with hr | ⟨b, hb⟩ | hn
  · simp [step_cnt_of_reset h hr]
  · cases hs : s.st
    · rcases step_cnt_of_byte_idle h hb hs with ⟨-, hc⟩ | ⟨-, hc, hz⟩
      · simp [hc]
      · rw [hc, hz]; exact hi.countBounded
    · obtain ⟨hin, hlow⟩ := hi.countInBuffer hs
      obtain ⟨-, hz, -⟩ := step_fields_of_byte_collecting h hb hs
      rw [step_cnt_toNat_of_byte_collecting h hb.byte_eq hs hin, hz]
      omega
  · rw [step_next_unique h (step_noByte hn)]; exact hi.countBounded

/-- Settles O44: each clause is one lemma about the count. -/
theorem countCountsPayloadBytes : Obligations.CountCountsPayloadBytes := by
  unfold Obligations.CountCountsPayloadBytes
  intro s t h
  exact ⟨step_cnt_of_hdrAccept h, step_cnt_of_reset h, step_cnt_toNat_of_byte_collecting h,
    step_cnt_of_byte_idle_not_accepted h, step_cnt_of_noByte h,
    fun hi hb hs => step_cnt_toNat_of_byte_collecting h hb hs (hi.countInBuffer hs).1,
    fun hi => step_keeps_countBounded hi h⟩

end Sys2Proof.Machine
end

section
/-! PROOFS. The CRC (40_crc16.md R49 to R51) and the header validity test (R54): the bits of one bit step, and the statements O8
to O11. The corner values that the rules print are computed. -/

namespace Sys2Proof.Machine

/-- The terms `x^12`, `x^5` and `1` of R48. -/
theorem crcPoly_bit : ∀ i < 16, crcPoly.getLsbD i = (i == 0 || i == 5 || i == 12) := by decide

theorem shiftLeft_one_bit (acc : U16) {i : Nat} (hi : i < 16) :
    (acc <<< 1).getLsbD i = (decide (1 ≤ i) && acc.getLsbD (i - 1)) := by
  simp only [BitVec.getLsbD_shiftLeft, hi, decide_true, Bool.true_and, ← decide_not, Nat.not_lt]

/-- R49 for one bit of the result, by whether there is feedback. -/
theorem crcBitStep_bit (acc : U16) (d : Bool) {i : Nat} (hi : i < 16) :
    (crcBitStep acc d).getLsbD i =
      ((decide (1 ≤ i) && acc.getLsbD (i - 1)) ^^
        ((acc.getLsbD 15 ^^ d) && (i == 0 || i == 5 || i == 12))) := by
  rw [← shiftLeft_one_bit acc hi, ← crcPoly_bit i hi, crcBitStep]
  cases acc.getLsbD 15 ^^ d with
  | false => simp
  | true => simp

/-- Settles O8: `crcBitStep_bit` for every bit. -/
theorem crcBitStepShiftsAndFeedsBack : Obligations.CrcBitStepShiftsAndFeedsBack :=
  ⟨fun acc d _ hi => crcBitStep_bit acc d hi, by decide⟩

/-- Settles O9: the loop of R50 unrolled over its eight bit positions. -/
theorem crcByteStepFeedsBitsMsbFirst : Obligations.CrcByteStepFeedsBitsMsbFirst :=
  ⟨fun _ _ => by simp only [crcByteStep, List.foldl_cons, List.foldl_nil], by decide⟩

/-- Settles O10: `crc16_append` for one more byte. -/
theorem crc16TakesBytesInOrder : Obligations.Crc16TakesBytesInOrder :=
  ⟨rfl, fun l b => crc16_append l [b], by decide +kernel⟩

/-- Settles O11: `hdrValid_iff`, the CRC taken over the first four bytes. -/
theorem headerValidityIsTypeAndCrc : Obligations.HeaderValidityIsTypeAndCrc :=
  ⟨hdrValid_iff, by decide +kernel⟩

end Sys2Proof.Machine
end

section
/-! PROOFS. The byte taken in `IDLE` (41_idle_header_recognition.md R63 to R65): the statements O23 to O25, one for each end of
the step. `exec` runs `step_idle` without a look at `st` (log entry 9), so no proof uses that the state is `IDLE`. The statements
write out the shifted window and the fields read from it, which are `shiftIn`, `typeField`, `sizeField` and `crcField` by
definition. -/

namespace Sys2Proof.Machine

theorem exec_byteIdle (b : Byte) (s : State) : exec (.byteIdle b) s = execByteIdle b s := rfl

/-- Settles O23: the type test comes before the crc test, so the crc takes no part. -/
theorem idleByteRejectsTypeZero : Obligations.IdleByteRejectsTypeZero := by
  unfold Obligations.IdleByteRejectsTypeZero
  intro s b _ hw
  exact (exec_byteIdle b s).trans (execByteIdle_zeroType hw)

/-- Settles O24: past the type test, the crc is taken over the first four bytes of the shifted window. -/
theorem idleByteRejectsBadCrc : Obligations.IdleByteRejectsBadCrc := by
  unfold Obligations.IdleByteRejectsBadCrc
  intro s b _ hw hc
  exact (exec_byteIdle b s).trans (execByteIdle_badCrc hw hc)

/-- Settles O25: a valid window passes both tests, and the header retained is the one the shifted window holds. -/
theorem idleByteAcceptsValidHeader : Obligations.IdleByteAcceptsValidHeader := by
  unfold Obligations.IdleByteAcceptsValidHeader
  intro s b _ hv
  exact (exec_byteIdle b s).trans (execByteIdle_accept hv)

end Sys2Proof.Machine
end

section
/-! PROOFS. The byte taken in `COLLECTING` (42_collecting_dispatch.md R71 to R74): what the append leaves in the buffer, what every
end of the step shares with the append, which end a step takes, and the statements O30 to O33. `exec` runs `step_collecting` without
a look at `st` (log entry 9), so the clauses about `exec` do not use that the state is `COLLECTING`. -/

namespace Sys2Proof.Machine

theorem exec_byteCollecting (b : Byte) (s : State) : exec (.byteCollecting b) s = execByteCollecting b s := rfl

/-! The buffer after an append whose index is one of its cells (R71). -/

theorem lookup_appendByte_self {s : State} (b : Byte) (hi : s.cnt.toNat < s.maxPayload.toNat) :
    (appendByte b s).pbuf.lookup s.cnt.toNat = some b := by
  rw [appendByte_pbuf, storeCell_inside _ _ hi, lookup_write_self]

theorem read_appendByte {s : State} (b : Byte) (hi : s.cnt.toNat < s.maxPayload.toNat) (a : Nat) :
    (appendByte b s).pbuf.read a = if a = s.cnt.toNat then b else s.pbuf.read a := by
  simp [read_storeCell, hi]

/-- Whatever becomes of the frame, a Collecting byte answers; it leaves the buffer and the count of the append, and all else but `st`
and the output as it was (R71). -/
theorem execByteCollecting_appends (b : Byte) (s : State) :
    ∃ t, execByteCollecting b s = .next t ∧ t.pbuf = (appendByte b s).pbuf ∧ t.cnt = s.cnt + 1#16 ∧ t.win = s.win ∧
      t.hdrType = s.hdrType ∧ t.hdrSize = s.hdrSize ∧ t.maxPayload = s.maxPayload ∧ t.input = s.input := by
  rcases execByteCollecting_cases b s with ⟨_, hx⟩ | ⟨_, _, hx⟩ | ⟨_, _, hx⟩ <;>
    exact ⟨_, hx, rfl, rfl, rfl, rfl, rfl, rfl, rfl⟩

/-! Which end a step takes (R72, R73). -/

theorem oversize_of_step_abort {s t : State} (h : step s = .next t) (ha : t.out.log = .abortOversize) :
    s.st = .collecting ∧ s.maxPayload.toNat < s.hdrSize.toNat := by
  cases step_cases h with
  | abort b hp hs ho ht => exact ⟨hs, ho⟩
  | _ => subst t; cases ha

/-- I3 leaves an oversize frame no count but 0. -/
theorem Invariant.cnt_eq_zero_of_oversize {s : State} (hi : Invariant s) (hs : s.st = .collecting)
    (ho : s.maxPayload.toNat < s.hdrSize.toNat) : s.cnt = 0#16 := by
  obtain ⟨-, h0 | ⟨-, hle⟩⟩ := hi.countInBuffer hs
  · exact BitVec.eq_of_toNat_eq h0
  · omega

/-- A byte of a frame that fits completes it exactly when the count after the append meets the size (R73). -/
theorem step_log_frameDone_iff {s t : State} (h : step s = .next t) (hs : s.st = .collecting)
    (hb : samplesByte (nextSample s) = true) (ho : s.hdrSize.toNat ≤ s.maxPayload.toNat) :
    t.out.log = .frameDone ↔ s.hdrSize.toNat ≤ (s.cnt + 1#16).toNat := by
  obtain ⟨b, hb⟩ := exists_samplesByte_of_byte hb
  rw [step_byte_collecting hb hs] at h
  rcases execByteCollecting_cases b (consume s) with ⟨hgt, -⟩ | ⟨-, hn, hx⟩ | ⟨-, hn, hx⟩
  · exact absurd ho (Nat.not_le.2 hgt)
  · cases h.symm.trans hx
    exact iff_of_true rfl hn
  · cases h.symm.trans hx
    exact iff_of_false nofun (Nat.not_le.2 hn)

/-- I3 leaves a frame of at least one byte, oversize or not, a count that has not met the size. -/
theorem Invariant.cnt_lt_hdrSize {s : State} (hi : Invariant s) (hs : s.st = .collecting) (h1 : 1 ≤ s.hdrSize.toNat) :
    s.cnt.toNat < s.hdrSize.toNat := by
  obtain ⟨-, h0 | ⟨hlt, -⟩⟩ := hi.countInBuffer hs
  · omega
  · exact hlt

/-- Settles O30: the effect is that of the append and the abort; I3 allows only the first byte; no 16-bit size exceeds 65535. -/
theorem oversizeFrameIsAborted : Obligations.OversizeFrameIsAborted := by
  unfold Obligations.OversizeFrameIsAborted
  refine ⟨fun s b _ hi ho => ?_, fun s t hinv h ha => ?_, fun s t hm h ha => ?_⟩
  · exact ⟨_, (exec_byteCollecting b s).trans (execByteCollecting_abort ho), cnt_succ_toNat hi, read_appendByte b hi,
      rfl, rfl, rfl, rfl, rfl, rfl, rfl⟩
  · obtain ⟨hs, ho⟩ := oversize_of_step_abort h ha
    exact ⟨hinv.cnt_eq_zero_of_oversize hs ho, ho⟩
  · obtain ⟨-, ho⟩ := oversize_of_step_abort h ha
    have hm' : s.maxPayload.toNat = 65535 := by rw [hm]; rfl
    have hz := s.hdrSize.isLt
    omega

/-- Settles O31: the payload is read from the buffer after the append; under I3 a count that meets the size equals it. -/
theorem completedFrameIsDispatched : Obligations.CompletedFrameIsDispatched := by
  unfold Obligations.CompletedFrameIsDispatched
  refine ⟨fun s b _ hi ho hn => ?_, fun s t hinv hs h1 hb h ho => ?_⟩
  · have hcnt := cnt_succ_toNat hi
    have hx := execByteCollecting_done (b := b) ho (hcnt ▸ hn)
    refine ⟨_, payloadPrefix (appendByte b s).pbuf s.hdrSize.toNat, (exec_byteCollecting b s).trans hx, rfl,
      payloadPrefix_length _ _, fun i hlt => ?_, hcnt, read_appendByte b hi, rfl, rfl, rfl, rfl, rfl, rfl⟩
    rw [payloadPrefix_getElem? _ _ _ hlt, read_appendByte b hi]
  · have hlt := hinv.cnt_lt_hdrSize hs h1
    rw [step_log_frameDone_iff h hs hb ho, cnt_succ_toNat (hinv.countInBuffer hs).1]
    omega

/-- A frame of size 0 completes on any byte, and its payload is empty (R74). -/
theorem execByteCollecting_zeroSize {s : State} (c : Byte) (hz : s.hdrSize = 0#16) :
    execByteCollecting c s = .next (deliverFrame (appendByte c s)) :=
  execByteCollecting_done (by simp [hz]) (by simp [hz])

theorem deliverFrame_out_zeroSize {s : State} (hz : s.hdrSize = 0#16) :
    (deliverFrame s).out = ⟨.frameDone, some ⟨s.hdrType, 0#16, []⟩⟩ := by
  simp [heldFrame, hz]

/-- Settles O32: the acceptance retains size 0 and count 0, so the next byte goes to cell 0 and meets the size. -/
theorem zeroSizeFrameSwallowsOneByte : Obligations.ZeroSizeFrameSwallowsOneByte := by
  unfold Obligations.ZeroSizeFrameSwallowsOneByte
  intro s b c _ hm hv hz
  exact ⟨_, _, (exec_byteIdle b s).trans (execByteIdle_accept hv), rfl, rfl, fun _ => rfl, fun _ => rfl,
    (exec_byteCollecting c _).trans (execByteCollecting_zeroSize c hz), rfl,
    deliverFrame_out_zeroSize hz, rfl, lookup_appendByte_self c hm, rfl⟩

/-- Settles O33: I3 for the index; for the effect, what every end of the step shares with the append. -/
theorem collectingByteStoresOneCellOnly : Obligations.CollectingByteStoresOneCellOnly := by
  unfold Obligations.CollectingByteStoresOneCellOnly
  refine ⟨fun s hinv hs => (hinv.countInBuffer hs).1, fun s b _ hi => ?_⟩
  obtain ⟨t, hx, hpbuf, hcnt, hwin, htype, hsize, hmax, hinput⟩ := execByteCollecting_appends b s
  refine ⟨t, (exec_byteCollecting b s).trans hx, ?_, ?_, hwin, htype, hsize, hmax, hinput, fun a ha => ⟨?_, ?_⟩⟩
  · rw [hpbuf, lookup_appendByte_self b hi]
  · rw [hcnt, cnt_succ_toNat hi]
  · rw [hpbuf, appendByte_pbuf, lookup_storeCell_other _ _ _ _ _ ha]
  · rw [hpbuf, read_appendByte b hi, if_neg ha]

end Sys2Proof.Machine
end

section
/-! PROOFS. The output of a step and the events that are not bytes (43_source_control_events.md R80, R82, R83): the two forms the
output of a step can have, that no operation reads the output before it, and the statements O40, O19 and O20. -/

namespace Sys2Proof.Machine

/-- The completion alone dispatches, and the frame it presents is still held by the state after it (R80, R93). -/
theorem step_out_cases {s t : State} (h : step s = .next t) :
    (t.out.log ≠ .frameDone ∧ t.out.dispatch = none) ∨ t.out = ⟨.frameDone, some (heldFrame t)⟩ := by
  cases step_cases h with
  | done b hp hs ho hn ht => subst ht; exact .inr rfl
  | _ => subst t; exact .inl ⟨nofun, rfl⟩

theorem heldFrame_payload_length (s : State) : (heldFrame s).payload.length = (heldFrame s).size.toNat :=
  payloadPrefix_length s.pbuf s.hdrSize.toNat

/-- Every end of every operation is an `emit`, which replaces the output, and no test on the way looks at it (R80). -/
theorem exec_ignores_out (i : Instr) (s : State) (o : Output) : exec i { s with out := o } = exec i s := by
  cases i <;> rfl

/-- The framer state and the event sampled, which select the operation, are not the output. -/
theorem step_ignores_out (s : State) (o : Output) : step { s with out := o } = step s :=
  exec_ignores_out (decodeSample s.st (nextSample s)) (consume s) o

/-- Settles O40, by the two forms of the output; `step_ignores_out` for the last clause. -/
theorem dispatchExactlyWhenFrameDone : Obligations.DispatchExactlyWhenFrameDone := by
  unfold Obligations.DispatchExactlyWhenFrameDone
  refine ⟨fun s t h => ?_, step_ignores_out⟩
  rcases step_out_cases h with ⟨hlog, hnone⟩ | hdone
  · simp [hlog, hnone]
  · simp [hdone, heldFrame_payload_length]

theorem exec_reset (s : State) : exec .reset s = .next (emit .noStep none (clearState s)) := rfl

theorem exec_closed (x : BitVec 9) (s : State) : exec (.closed x) s = .next (emit .noStep none s) := rfl

/-- A state just reset is at its reset values, and its output is quiet: there is nothing left to clear (R83). -/
theorem exec_reset_idem {s t : State} (h : exec .reset s = .next t) : exec .reset t = .next t := by
  cases h
  rfl

/-- Settles O19: the decoder looks at the pin first; the effect of `RESET` is that of `clearState`, which is idempotent. -/
theorem resetClearsTheState : Obligations.ResetClearsTheState :=
  ⟨fun _ _ => decodeSample_reset rfl, exec_reset, fun _ _ => exec_reset_idem⟩

/-- Settles O20: `CLOSED` writes the output alone, which no step reads. -/
theorem closedChangesNothing : Obligations.ClosedChangesNothing := by
  unfold Obligations.ClosedChangesNothing
  refine ⟨exec_closed, fun x s t h => ?_⟩
  cases h
  exact step_ignores_out s ⟨.noStep, none⟩

end Sys2Proof.Machine
end

section
/-! PROOFS. The log code of a step (R87): the code each kind of step logs, the table of R87 as two functions of the code (the
condition of its row and the effect of its row) with one theorem about each, and the statement O41. -/

namespace Sys2Proof.Machine

/-- The window that the next sample's byte leaves when it is taken in `IDLE` (R62). -/
def nextWindow (s : State) : Window := shiftIn s.win (evData (nextSample s).ev)

/-! The code a step logs, by the kind of its sample and, for a byte, the framer state. -/

theorem step_log_of_not_byte {s t : State} (h : step s = .next t) (hb : samplesByte (nextSample s) = false) :
    t.out.log = .noStep := by
  rcases sample_cases (nextSample s) with hr | ⟨b, hp⟩ | hn
  · simp [step_next_unique h (step_reset hr)]
  · exact absurd hp.byte_eq (by simp [hb])
  · simp [step_next_unique h (step_noByte hn)]

theorem step_log_of_byte_idle {s t : State} (h : step s = .next t) (hb : samplesByte (nextSample s) = true)
    (hs : s.st = .idle) :
    t.out.log =
      if typeField (nextWindow s) = 0#16 then .rejZeroType
      else if hdrValid (nextWindow s) = true then .hdrAccept
      else .rejBadCrc := by
  obtain ⟨b, hp⟩ := exists_samplesByte_of_byte hb
  obtain rfl := hp.data_eq
  rw [step_byte_idle hp hs] at h
  rcases execByteIdle_cases _ (consume s) with ⟨hw, hx⟩ | ⟨hw, hc, hx⟩ | ⟨hv, hx⟩ <;> cases h.symm.trans hx
  · exact (if_pos hw).symm
  · exact ((if_neg hw).trans (if_neg fun hv => hc ((hdrValid_iff _).1 hv).2)).symm
  · exact ((if_neg ((hdrValid_iff _).1 hv).1).trans (if_pos hv)).symm

theorem step_log_of_byte_collecting {s t : State} (h : step s = .next t) (hb : samplesByte (nextSample s) = true)
    (hs : s.st = .collecting) :
    t.out.log =
      if s.maxPayload.toNat < s.hdrSize.toNat then .abortOversize
      else if s.hdrSize.toNat ≤ (s.cnt + 1#16).toNat then .frameDone
      else .collect := by
  obtain ⟨b, hp⟩ := exists_samplesByte_of_byte hb
  rw [step_byte_collecting hp hs] at h
  rcases execByteCollecting_cases b (consume s) with ⟨ho, hx⟩ | ⟨ho, hn, hx⟩ | ⟨ho, hn, hx⟩ <;>
    cases h.symm.trans hx
  · exact (if_pos ho).symm
  · exact ((if_neg ho.not_gt).trans (if_pos hn)).symm
  · exact ((if_neg ho.not_gt).trans (if_neg hn.not_ge)).symm

/-- The condition of each row of R87's table, with the count after the append on 16 bits, as the block compares it (R73). -/
def rowCondition (s : State) : LogCode → Prop
  | .noStep => samplesByte (nextSample s) = false
  | .rejZeroType => samplesByte (nextSample s) = true ∧ s.st = .idle ∧ typeField (nextWindow s) = 0#16
  | .rejBadCrc => samplesByte (nextSample s) = true ∧ s.st = .idle ∧ typeField (nextWindow s) ≠ 0#16 ∧
      crc16 (crcSpan (nextWindow s)) ≠ crcField (nextWindow s)
  | .hdrAccept => samplesByte (nextSample s) = true ∧ s.st = .idle ∧ hdrValid (nextWindow s) = true
  | .collect => samplesByte (nextSample s) = true ∧ s.st = .collecting ∧ ¬ s.maxPayload.toNat < s.hdrSize.toNat ∧
      ¬ s.hdrSize.toNat ≤ (s.cnt + 1#16).toNat
  | .abortOversize => samplesByte (nextSample s) = true ∧ s.st = .collecting ∧ s.maxPayload.toNat < s.hdrSize.toNat
  | .frameDone => samplesByte (nextSample s) = true ∧ s.st = .collecting ∧ ¬ s.maxPayload.toNat < s.hdrSize.toNat ∧
      s.hdrSize.toNat ≤ (s.cnt + 1#16).toNat

/-- A step logs exactly the code whose row it meets the condition of (R87). -/
theorem step_log_iff {s t : State} (h : step s = .next t) (c : LogCode) : t.out.log = c ↔ rowCondition s c := by
  cases hb : samplesByte (nextSample s) with
  | false =>
    rw [step_log_of_not_byte h hb]
    cases c <;> simp [rowCondition, hb]
  | true =>
    cases hs : s.st with
    | idle =>
      rw [step_log_of_byte_idle h hb hs]
      cases c <;> simp +contextual [rowCondition, hb, hs, hdrValid_iff, ite_eq_iff]
    | collecting =>
      rw [step_log_of_byte_collecting h hb hs]
      cases c <;> simp [rowCondition, hb, hs, ite_eq_iff]

/-- The effect of each row of R87's table on the architectural state; row 0 is the reset and the steps that take no byte. -/
def rowEffect (s : State) : LogCode → State
  | .noStep => if (nextSample s).rst = true then clearState s else s
  | .rejZeroType | .rejBadCrc => setWindow (nextWindow s) s
  | .hdrAccept => retainHeader (typeField (nextWindow s)) (sizeField (nextWindow s)) (setWindow (nextWindow s) s)
  | .collect => appendByte (evData (nextSample s).ev) s
  | .abortOversize | .frameDone => returnToIdle (appendByte (evData (nextSample s).ev) s)

theorem rowEffect_of_reset {s : State} (hr : (nextSample s).rst = true) : rowEffect s .noStep = clearState s := if_pos hr

theorem rowEffect_of_no_reset {s : State} (hr : (nextSample s).rst = false) : rowEffect s .noStep = s := by
  simp [rowEffect, hr]

/-- A step has exactly the effect of the row of the code it logs (R87). -/
theorem step_effect {s t : State} (h : step s = .next t) :
    t.architectural = (rowEffect s t.out.log).architectural := by
  cases step_cases h with
  | reset hp ht => rw [ht, emit_out, rowEffect_of_reset hp]; rfl
  | quiet hp ht => rw [ht, emit_out, rowEffect_of_no_reset (samplesByte_of_noByte hp).2]; rfl
  | zeroType b hp hs hw ht => obtain rfl := hp.data_eq; subst ht; rfl
  | badCrc b hp hs hw hc ht => obtain rfl := hp.data_eq; subst ht; rfl
  | accept b hp hs hv ht => obtain rfl := hp.data_eq; subst ht; rfl
  | collect b hp hs ho hn ht => obtain rfl := hp.data_eq; subst ht; rfl
  | abort b hp hs ho ht => obtain rfl := hp.data_eq; subst ht; rfl
  | done b hp hs ho hn ht => obtain rfl := hp.data_eq; subst ht; rfl

theorem step_effect_of_log {s t : State} {c : LogCode} (h : step s = .next t) (hc : t.out.log = c) :
    t.architectural = (rowEffect s c).architectural := hc ▸ step_effect h

/-- The pin is high in no sample that is a byte. -/
theorem step_log_of_reset {s t : State} (h : step s = .next t) (hr : (nextSample s).rst = true) : t.out.log = .noStep :=
  step_log_of_not_byte h (samplesByte_of_rst hr).1

theorem step_dispatch_iff {s t : State} (h : step s = .next t) : t.out.dispatch ≠ none ↔ t.out.log = .frameDone :=
  (dispatchExactlyWhenFrameDone.1 s t h).1

theorem LogCode.code_ne_seven (l : LogCode) : l.code ≠ 7 := by
  cases l <;> decide

/-! With the index inside the buffer, as I3 says it is, the append stores its byte and the count does not wrap. -/

section
variable {s t : State} (hi : s.st = .collecting → s.cnt.toNat < s.maxPayload.toNat)
include hi

theorem rowCondition_collect_iff :
    rowCondition s .collect ↔ samplesByte (nextSample s) = true ∧ s.st = .collecting ∧
      ¬ s.maxPayload.toNat < s.hdrSize.toNat ∧ ¬ s.hdrSize.toNat ≤ s.cnt.toNat + 1 :=
  and_congr_right fun _ => and_congr_right fun hs => by rw [cnt_succ_toNat (hi hs)]

theorem rowCondition_frameDone_iff :
    rowCondition s .frameDone ↔ samplesByte (nextSample s) = true ∧ s.st = .collecting ∧
      ¬ s.maxPayload.toNat < s.hdrSize.toNat ∧ s.hdrSize.toNat ≤ s.cnt.toNat + 1 :=
  and_congr_right fun _ => and_congr_right fun hs => by rw [cnt_succ_toNat (hi hs)]

theorem appendByte_inside (b : Byte) (hs : s.st = .collecting) :
    appendByte b s = { s with pbuf := s.pbuf.write s.cnt.toNat b, cnt := s.cnt + 1#16 } := by
  rw [appendByte, storeCell_inside _ _ (hi hs)]

theorem step_effect_of_collect (h : step s = .next t) (hl : t.out.log = .collect) :
    t.architectural =
      { s with pbuf := s.pbuf.write s.cnt.toNat (evData (nextSample s).ev), cnt := s.cnt + 1#16 }.architectural := by
  obtain ⟨-, hs, -⟩ := (step_log_iff h .collect).1 hl
  rw [step_effect_of_log h hl, rowEffect, appendByte_inside hi _ hs]

theorem step_effect_of_frame_end (h : step s = .next t) (hl : t.out.log = .abortOversize ∨ t.out.log = .frameDone) :
    t.architectural = { s with
      st := .idle
      pbuf := s.pbuf.write s.cnt.toNat (evData (nextSample s).ev)
      cnt := s.cnt + 1#16 }.architectural := by
  rcases hl with hl | hl <;>
  · obtain ⟨-, hs, -⟩ := (step_log_iff h _).1 hl
    rw [step_effect_of_log h hl, rowEffect, appendByte_inside hi _ hs, returnToIdle]

end

/-- Settles O41: `step_log_iff` at each code, then the effect of each row, then `step_dispatch_iff`. -/
theorem logCodeSaysWhatTheStepDid : Obligations.LogCodeSaysWhatTheStepDid := by
  unfold Obligations.LogCodeSaysWhatTheStepDid
  refine ⟨⟨rfl, rfl, rfl, rfl, rfl, rfl, rfl, LogCode.code_ne_seven⟩, fun s t h => ?_⟩
  refine ⟨step_log_iff h .noStep, step_log_iff h .rejZeroType, step_log_iff h .rejBadCrc, step_log_iff h .hdrAccept,
    step_log_iff h .abortOversize, fun hi => ?stored, fun hr => ?reset, fun hl hr => ?quiet, fun hl => ?rejected,
    step_effect_of_log h, step_dispatch_iff h⟩
  case stored =>
    exact ⟨(step_log_iff h .collect).trans (rowCondition_collect_iff hi),
      (step_log_iff h .frameDone).trans (rowCondition_frameDone_iff hi),
      step_effect_of_collect hi h, step_effect_of_frame_end hi h⟩
  case reset =>
    rw [step_effect_of_log h (step_log_of_reset h hr), rowEffect_of_reset hr]
    rfl
  case quiet => rw [step_effect_of_log h hl, rowEffect_of_no_reset hr]
  case rejected => exact hl.elim (step_effect_of_log h) (step_effect_of_log h)

end Sys2Proof.Machine
end

section
/-! PROOFS. The rows of `IDLE` and `NO_DATA` (41_idle_header_recognition.md sections 1 and 2, 43_source_control_events.md R81): what
the Idle rows leave alone, the effect of the header rows, and the statements O21, O26 and O28. `exec` runs a row without a look at
`st` (log entry 9). -/

namespace Sys2Proof.Machine

/-- What the Idle rows leave alone (R61). -/
structure IdleFrame (s t : State) : Prop where
  pbuf : t.pbuf = s.pbuf
  maxPayload : t.maxPayload = s.maxPayload
  input : t.input = s.input
  noDispatch : t.out.dispatch = none
  held : t.out.log ≠ .hdrAccept → t.st = s.st ∧ t.hdrType = s.hdrType ∧ t.hdrSize = s.hdrSize ∧ t.cnt = s.cnt

theorem exec_noData (x : BitVec 8) (s : State) : exec (.noData x) s = .next (emit .noStep none s) := rfl

/-- Settles O21: `NO_DATA` writes the output alone, which no step reads. -/
theorem noDataChangesNothing : Obligations.NoDataChangesNothing := by
  unfold Obligations.NoDataChangesNothing
  refine ⟨exec_noData, fun x s t h => ?_⟩
  cases h
  exact step_ignores_out s ⟨.noStep, none⟩

/-! The header rows (R63 to R65; log entry 7). -/

theorem exec_hdrZero (z c : U16) (s : State) :
    exec (.hdrZero z c) s = .next (emit .rejZeroType none (setWindow (windowOf 0#16 z c) s)) := rfl

theorem exec_hdrBadCrc (t z c : U16) (s : State) :
    exec (.hdrBadCrc t z c) s = .next (emit .rejBadCrc none (setWindow (windowOf t z c) s)) := rfl

theorem exec_hdr (t z c : U16) (s : State) :
    exec (.hdr t z c) s = .next (emit .hdrAccept none (retainHeader t z (setWindow (windowOf t z c) s))) := rfl

/-- Settles O26: the three effects, each written out. -/
theorem headerRowsTakeTheirEffect : Obligations.HeaderRowsTakeTheirEffect :=
  ⟨fun s z c _ => exec_hdrZero z c s, fun s t z c _ _ => exec_hdrBadCrc t z c s, fun s t z c _ _ => exec_hdr t z c s⟩

theorem IdleFrame.of_reject (log : LogCode) (w : Window) (s : State) : IdleFrame s (emit log none (setWindow w s)) :=
  ⟨rfl, rfl, rfl, rfl, fun _ => ⟨rfl, rfl, rfl, rfl⟩⟩

theorem IdleFrame.of_accept (t z : U16) (w : Window) (s : State) :
    IdleFrame s (emit .hdrAccept none (retainHeader t z (setWindow w s))) :=
  ⟨rfl, rfl, rfl, rfl, fun ha => absurd rfl ha⟩

/-- The rows selected in `IDLE` and not in `COLLECTING`: the Idle byte and the three header rows. -/
theorem exec_idleFrame {i : Instr} {s t : State} (hidle : i.selectedIn .idle = true) (hcoll : i.selectedIn .collecting = false)
    (h : exec i s = .next t) : IdleFrame s t := by
  cases i with
  | byteIdle b =>
    rw [exec_byteIdle] at h
    rcases execByteIdle_cases b s with ⟨_, hx⟩ | ⟨_, _, hx⟩ | ⟨_, hx⟩ <;> cases h.symm.trans hx
    · exact .of_reject _ _ s
    · exact .of_reject _ _ s
    · exact .of_accept _ _ _ s
  | hdrZero z c => cases h; exact .of_reject _ _ s
  | hdrBadCrc y z c => cases h; exact .of_reject _ _ s
  | hdr y z c => cases h; exact .of_accept _ _ _ s
  | byteCollecting b => cases hidle
  | reset => cases hcoll
  | closed x => cases hcoll
  | noData x => cases hcoll

/-- Settles O28, by `exec_idleFrame`. -/
theorem idleRowsLeaveTheRestAlone : Obligations.IdleRowsLeaveTheRestAlone := by
  unfold Obligations.IdleRowsLeaveTheRestAlone
  intro i s t _ hidle hcoll h
  have hframe := exec_idleFrame hidle hcoll h
  exact ⟨hframe.pbuf, fun a => by rw [hframe.pbuf], hframe.maxPayload, hframe.input, hframe.noDispatch, hframe.held⟩

end Sys2Proof.Machine
end

section
/-! PROOFS. The encodings (30_encoding.md sections 2 to 4 and 6): the class an event word, a sample and a candidate header decode
to, the round trips of decoder and encoder, the headers `mk_header` builds, the expansion of stimulus lines, the operation a step
runs, and the statements O1 to O7, O37 and O38. -/

namespace Sys2Proof.Machine

/-! Event words (R36, R37). -/

theorem decodeEvent_of_closed (st : FrameState) {w : EventWord} (h : evClosed w = true) :
    decodeEvent st w = .closed (evBelowClosed w) := if_pos h

theorem decodeEvent_of_byte_idle {w : EventWord} (hc : evClosed w = false) (hv : evValid w = true) :
    decodeEvent .idle w = .byteIdle (evData w) := by
  simp [decodeEvent, hc, hv]

theorem decodeEvent_of_byte_collecting {w : EventWord} (hc : evClosed w = false) (hv : evValid w = true) :
    decodeEvent .collecting w = .byteCollecting (evData w) := by
  simp [decodeEvent, hc, hv]

theorem decodeEvent_of_noData (st : FrameState) {w : EventWord} (hc : evClosed w = false) (hv : evValid w = false) :
    decodeEvent st w = .noData (evData w) := by
  simp [decodeEvent, hc, hv]

/-! Candidate headers (R43): the type test first, then the crc test. -/

theorem decodeHeader_of_zeroType {w : Window} (ht : typeField w = 0#16) :
    decodeHeader w = .hdrZero (sizeField w) (crcField w) := if_pos ht

theorem decodeHeader_of_badCrc {w : Window} (ht : typeField w ≠ 0#16) (hc : crc16 (crcSpan w) ≠ crcField w) :
    decodeHeader w = .hdrBadCrc (typeField w) (sizeField w) (crcField w) :=
  (if_neg ht).trans (if_neg (by simpa [crcMatches] using hc))

theorem decodeHeader_of_valid {w : Window} (hv : hdrValid w = true) :
    decodeHeader w = .hdr (typeField w) (sizeField w) (crcField w) := by
  obtain ⟨ht, hc⟩ := (hdrValid_iff w).1 hv
  exact (if_neg ht).trans (if_pos (by simpa [crcMatches] using hc))

/-- Every window is of one of the three classes. -/
theorem header_cases (w : Window) :
    typeField w = 0#16 ∨ (typeField w ≠ 0#16 ∧ crc16 (crcSpan w) ≠ crcField w) ∨ hdrValid w = true := by
  rw [hdrValid_iff]
  tauto

theorem wellFormed_hdrBadCrc_iff (t z c : U16) :
    (Instr.hdrBadCrc t z c).wellFormed = true ↔
      t ≠ 0#16 ∧ crc16 (crcSpan (windowOf t z c)) ≠ crcField (windowOf t z c) := by
  simp [Instr.wellFormed, crcMatches]

/-- A well-formed header row is what the window with its fields decodes to. -/
theorem decodeHeader_windowOf_zero (z c : U16) : decodeHeader (windowOf 0#16 z c) = .hdrZero z c := by
  simp [decodeHeader_of_zeroType]

theorem decodeHeader_windowOf_badCrc {t z c : U16} (hw : (Instr.hdrBadCrc t z c).wellFormed = true) :
    decodeHeader (windowOf t z c) = .hdrBadCrc t z c := by
  obtain ⟨ht, hc⟩ := (wellFormed_hdrBadCrc_iff t z c).1 hw
  simpa using decodeHeader_of_badCrc (by simpa using ht) hc

theorem decodeHeader_windowOf_valid {t z c : U16} (hw : (Instr.hdr t z c).wellFormed = true) :
    decodeHeader (windowOf t z c) = .hdr t z c := by
  simpa using decodeHeader_of_valid hw

theorem decode_wh_headerWordOf (w : Window) : decode .idle (.wh (headerWordOf w)) = .ok (decodeHeader w) := by
  simp [decode]

/-- Settles O3, row by row; a header row is selected in `IDLE` only, and its word gives its window back. -/
theorem decodeOfEncodeIsTheOperation : Obligations.DecodeOfEncodeIsTheOperation := by
  unfold Obligations.DecodeOfEncodeIsTheOperation
  intro st i hw hsel
  cases i with
  | reset => rfl
  | closed x => simp [encode, decode, decodeEvent_of_closed]
  | noData x => simp [encode, decode, decodeEvent_of_noData]
  | byteIdle b =>
    obtain rfl : st = .idle := by simpa [Instr.selectedIn] using hsel
    simp [encode, decode, decodeEvent_of_byte_idle]
  | byteCollecting b =>
    obtain rfl : st = .collecting := by simpa [Instr.selectedIn] using hsel
    simp [encode, decode, decodeEvent_of_byte_collecting]
  | hdrZero z c =>
    obtain rfl : st = .idle := by simpa [Instr.selectedIn] using hsel
    rw [encode, decode_wh_headerWordOf, decodeHeader_windowOf_zero]
  | hdrBadCrc t z c =>
    obtain rfl : st = .idle := by simpa [Instr.selectedIn] using hsel
    rw [encode, decode_wh_headerWordOf, decodeHeader_windowOf_badCrc hw]
  | hdr t z c =>
    obtain rfl : st = .idle := by simpa [Instr.selectedIn] using hsel
    rw [encode, decode_wh_headerWordOf, decodeHeader_windowOf_valid hw]

/-! The other direction, for each of the two decoders. -/

/-- The three kinds of event word (R37). -/
theorem eventWord_cases (w : EventWord) :
    evClosed w = true ∨ (evClosed w = false ∧ evValid w = true) ∨ (evClosed w = false ∧ evValid w = false) := by
  cases evClosed w <;> cases evValid w <;> simp

theorem encode_decodeEvent (st : FrameState) (w : EventWord) : encode (decodeEvent st w) = .ev w := by
  rcases eventWord_cases w with hc | ⟨hc, hv⟩ | ⟨hc, hv⟩
  · rw [decodeEvent_of_closed st hc, encode, closedWord_fields w hc]
  · have hw := eventWord_fields w
    rw [hc, hv] at hw
    cases st
    · rw [decodeEvent_of_byte_idle hc hv, encode, hw]
    · rw [decodeEvent_of_byte_collecting hc hv, encode, hw]
  · have hw := eventWord_fields w
    rw [hc, hv] at hw
    rw [decodeEvent_of_noData st hc hv, encode, hw]

theorem decodeEvent_wellFormed_selected (st : FrameState) (w : EventWord) :
    (decodeEvent st w).wellFormed = true ∧ (decodeEvent st w).selectedIn st = true := by
  rcases eventWord_cases w with hc | ⟨hc, hv⟩ | ⟨hc, hv⟩
  · rw [decodeEvent_of_closed st hc]; exact ⟨rfl, rfl⟩
  · cases st
    · rw [decodeEvent_of_byte_idle hc hv]; exact ⟨rfl, rfl⟩
    · rw [decodeEvent_of_byte_collecting hc hv]; exact ⟨rfl, rfl⟩
  · rw [decodeEvent_of_noData st hc hv]; exact ⟨rfl, rfl⟩

theorem decodeSample_wellFormed_selected (st : FrameState) (p : PortSample) :
    (decodeSample st p).wellFormed = true ∧ (decodeSample st p).selectedIn st = true := by
  unfold decodeSample
  split
  · exact ⟨rfl, rfl⟩
  · exact decodeEvent_wellFormed_selected st p.ev

theorem encode_decodeHeader (w : Window) : encode (decodeHeader w) = .wh (headerWordOf w) := by
  rcases header_cases w with ht | ⟨ht, hc⟩ | hv
  · rw [decodeHeader_of_zeroType ht, encode, ← ht, windowOf_fields]
  · rw [decodeHeader_of_badCrc ht hc, encode, windowOf_fields]
  · rw [decodeHeader_of_valid hv, encode, windowOf_fields]

theorem decodeHeader_wellFormed_selected (w : Window) :
    (decodeHeader w).wellFormed = true ∧ (decodeHeader w).selectedIn .idle = true := by
  rcases header_cases w with ht | ⟨ht, hc⟩ | hv
  · rw [decodeHeader_of_zeroType ht]; exact ⟨rfl, rfl⟩
  · rw [decodeHeader_of_badCrc ht hc, wellFormed_hdrBadCrc_iff, windowOf_fields]; exact ⟨⟨ht, hc⟩, rfl⟩
  · rw [decodeHeader_of_valid hv, Instr.wellFormed, windowOf_fields]; exact ⟨hv, rfl⟩

/-- Settles O4, by the format of the word. -/
theorem encodeOfDecodeIsTheWord : Obligations.EncodeOfDecodeIsTheWord := by
  unfold Obligations.EncodeOfDecodeIsTheWord
  intro st c i h
  cases c with
  | pin r =>
    by_cases hr : r = 1
    · subst hr; cases h; exact ⟨rfl, rfl, rfl⟩
    · rw [decode, if_neg hr] at h
      cases h
  | ev w => cases h; exact ⟨encode_decodeEvent st w, decodeEvent_wellFormed_selected st w⟩
  | wh x =>
    cases st with
    | idle =>
      cases h
      exact ⟨by rw [encode_decodeHeader, headerWordOf_windowOfWord], decodeHeader_wellFormed_selected _⟩
    | collecting => cases h

/-- Settles O5: one decoder lemma a class; the CRC is taken over the first four bytes. -/
theorem headerClassesPartitionAllWindows : Obligations.HeaderClassesPartitionAllWindows := by
  unfold Obligations.HeaderClassesPartitionAllWindows
  exact fun w => ⟨decodeHeader_of_zeroType, decodeHeader_of_badCrc,
    fun ht hc => decodeHeader_of_valid ((hdrValid_iff w).2 ⟨ht, hc⟩)⟩

/-- The word `0x100 | b` of R36: bit 8 above the byte. -/
theorem byteSample_ev (b : Byte) : (byteSample b).ev = 0x100#10 ||| b.setWidth 10 := by
  apply BitVec.eq_of_getLsbD_eq
  intro i hi
  rw [byteSample, eventWord_bit, BitVec.getLsbD_or, BitVec.getLsbD_setWidth]
  interval_cases i <;> simp

/-- Settles O1: one decoder lemma for each kind of word. -/
theorem eventWordDecodesByPriority : Obligations.EventWordDecodesByPriority := by
  unfold Obligations.EventWordDecodesByPriority
  refine ⟨fun st w => ⟨decodeEvent_of_closed st, fun hc hv => ?_, decodeEvent_of_noData st⟩, byteSample_ev, by decide⟩
  cases st
  · exact decodeEvent_of_byte_idle hc hv
  · exact decodeEvent_of_byte_collecting hc hv

/-- Settles O2: the decoder computes on each of the eight words. -/
theorem wordsFromTheTableDecode : Obligations.WordsFromTheTableDecode := by
  unfold Obligations.WordsFromTheTableDecode
  decide +kernel

/-! The headers `mk_header` builds (R40, R54). -/

theorem mkHeader_of_ne_zero {t : U16} (ht : t ≠ 0#16) (z : U16) : mkHeader t z = some (builtHeader t z) := if_neg ht

theorem mkHeader_zero (z : U16) : mkHeader 0#16 z = none := if_pos rfl

@[simp] theorem typeField_builtHeader (t z : U16) : typeField (builtHeader t z) = t := typeField_windowOf t z _

@[simp] theorem sizeField_builtHeader (t z : U16) : sizeField (builtHeader t z) = z := sizeField_windowOf t z _

theorem hdrValid_builtHeader {t : U16} (ht : t ≠ 0#16) (z : U16) : hdrValid (builtHeader t z) = true := by
  rw [hdrValid_iff, typeField_builtHeader]
  exact ⟨ht, (crcField_windowOf t z _).symm⟩

/-- The crc field of a valid window leaves no choice: the window is built from its own type and size. -/
theorem builtHeader_of_valid {w : Window} (hv : hdrValid w = true) : builtHeader (typeField w) (sizeField w) = w := by
  obtain ⟨-, hc⟩ := (hdrValid_iff w).1 hv
  have hspan : [hiByte (typeField w), loByte (typeField w), hiByte (sizeField w), loByte (sizeField w)] = crcSpan w := by
    simp [typeField, sizeField, crcSpan]
  rw [builtHeader, hspan, hc, windowOf_fields]

/-- Settles O6: a built header is valid, and a valid window is built from its own fields. -/
theorem validHeadersAreExactlyTheBuiltOnes : Obligations.ValidHeadersAreExactlyTheBuiltOnes := by
  unfold Obligations.ValidHeadersAreExactlyTheBuiltOnes
  refine ⟨fun w => ⟨fun hv => ⟨typeField w, sizeField w, ?_⟩, fun ⟨t, z, h⟩ => ?_⟩, fun t z ht => ?_, mkHeader_zero⟩
  · rw [mkHeader_of_ne_zero ((hdrValid_iff w).1 hv).1, builtHeader_of_valid hv]
  · by_cases ht : t = 0#16
    · simp [ht, mkHeader_zero] at h
    · rw [mkHeader_of_ne_zero ht] at h
      cases h
      exact hdrValid_builtHeader ht z
  · exact ⟨_, mkHeader_of_ne_zero ht z, typeField_builtHeader t z, sizeField_builtHeader t z, rfl⟩

theorem frameBytes_of_ne_zero {t : U16} {p : List Byte} (ht : t ≠ 0#16) (hp : p.length < 65536) :
    frameBytes t p = some (windowBytes (builtHeader t (BitVec.ofNat 16 p.length)) ++ p) := by
  rw [frameBytes, if_pos hp, mkHeader_of_ne_zero ht, Option.map_some]

theorem frameBytes_zero (p : List Byte) : frameBytes 0#16 p = none := by
  simp [frameBytes, mkHeader_zero]

/-- Settles O7: what the header builder and the frame builder answer, mapped to samples. -/
theorem pseudoInstructionsExpand : Obligations.PseudoInstructionsExpand := by
  unfold Obligations.PseudoInstructionsExpand
  refine ⟨fun _ => rfl, fun _ => rfl, fun t z ht => ?_, fun z => ?_, fun t p ht hp => ?_, fun p => ?_⟩
  · rw [expandLine, mkHeader_of_ne_zero ht, Option.map_some]
  · rw [expandLine, mkHeader_zero, Option.map_none]
  · rw [expandLine, frameBytes_of_ne_zero ht hp, Option.map_some]
  · rw [expandLine, frameBytes_zero, Option.map_none]

/-! The operation a step runs (R79). -/

theorem decodeSample_of_rst_low (st : FrameState) {p : PortSample} (h : p.rst = false) :
    decodeSample st p = decodeEvent st p.ev := by
  simp [decodeSample, h]

theorem step_of_input_cons {s : State} {p : PortSample} {rest : List PortSample} (h : s.input = p :: rest) :
    step s = exec (decodeSample s.st p) { s with input := rest } := by
  simp [step, nextSample, consume, h]

theorem step_of_input_nil {s : State} (h : s.input = []) : step s = exec (.noData 0) s := by
  have hp : nextSample s = noDataSample := by simp [nextSample, h]
  rw [step_noByte (by rw [hp]; decide), consume, h, List.tail_nil, ← h]
  rfl

/-- Settles O38: what a sample decodes to is well formed and selected by the state it is decoded in. -/
theorem stepRunsTheDecodedOperation : Obligations.StepRunsTheDecodedOperation :=
  ⟨fun s p _ h => ⟨step_of_input_cons h, decodeSample_wellFormed_selected s.st p⟩, fun _ => step_of_input_nil⟩

/-- Settles O37: the sample at the head, by the pin and then by the kind of its event word. -/
theorem stepTakesOneEventByPriority : Obligations.StepTakesOneEventByPriority := by
  unfold Obligations.StepTakesOneEventByPriority
  intro s rst ev rest h
  rw [step_of_input_cons h]
  refine ⟨fun hr => ?_, fun hr hc => ?_, fun hr hc hv hs => ?_, fun hr hc hv hs => ?_, fun hr hc hv => ?_⟩
  · rw [decodeSample_reset hr]
  · rw [decodeSample_of_rst_low _ hr, decodeEvent_of_closed _ hc]; rfl
  · rw [decodeSample_of_rst_low _ hr, hs, decodeEvent_of_byte_idle hc hv]; rfl
  · rw [decodeSample_of_rst_low _ hr, hs, decodeEvent_of_byte_collecting hc hv]; rfl
  · rw [decodeSample_of_rst_low _ hr, decodeEvent_of_noData _ hc hv]; rfl

end Sys2Proof.Machine
end

section
/-! PROOFS. The two levels of the encoding (30_encoding.md sections 1 and 7) and placed words (log entries 8 and 10): an Idle byte runs
the header row its shifted window spells, and a placed word is run next; the statements O27 and O39. -/

namespace Sys2Proof.Machine

/-- The two levels of the encoding (R35, R47): the fields of the shifted window build it back. -/
theorem exec_byteIdle_eq_header (b : Byte) (s : State) :
    exec (.byteIdle b) s = exec (decodeHeader (shiftIn s.win b)) s := by
  rw [exec_byteIdle]
  rcases header_cases (shiftIn s.win b) with ht | ⟨ht, hc⟩ | hv
  · rw [execByteIdle_zeroType ht, decodeHeader_of_zeroType ht, exec_hdrZero, ← ht, windowOf_fields]
  · rw [execByteIdle_badCrc ht hc, decodeHeader_of_badCrc ht hc, exec_hdrBadCrc, windowOf_fields]
  · rw [execByteIdle_accept hv, decodeHeader_of_valid hv, exec_hdr, windowOf_fields]

/-- Settles O27, by `exec_byteIdle_eq_header`. -/
theorem idleByteRunsTheHeaderItSpells : Obligations.IdleByteRunsTheHeaderItSpells :=
  fun s b _ => exec_byteIdle_eq_header b s

/-! Placed words (log entries 8 and 10). -/

theorem step_offer (p : PortSample) (s : State) : step (offer p s) = exec (decodeSample s.st p) s := rfl

/-- A header row writes the whole window, so the window before it does not matter. -/
theorem exec_decodeHeader_setWindow (w v : Window) (s : State) :
    exec (decodeHeader w) (setWindow v s) = exec (decodeHeader w) s := by
  rcases header_cases w with ht | ⟨ht, hc⟩ | hv
  · rw [decodeHeader_of_zeroType ht]; rfl
  · rw [decodeHeader_of_badCrc ht hc]; rfl
  · rw [decodeHeader_of_valid hv]; rfl

theorem step_offerHeader {s : State} (hs : s.st = .idle) (w : Window) :
    step (offerHeader w s) = exec (decodeHeader w) s := by
  have hplaced : offerHeader w s = offer (byteSample w.w5) (setWindow ⟨s.win.w0, w.w0, w.w1, w.w2, w.w3, w.w4⟩ s) := by
    rw [offerHeader, ← hs]
    rfl
  have hbyte : decodeSample .idle (byteSample w.w5) = .byteIdle w.w5 := decodeSample_byte ⟨rfl, rfl⟩
  rw [hplaced, step_offer, setWindow_st, hs, hbyte, exec_byteIdle_eq_header]
  exact exec_decodeHeader_setWindow w _ s

/-- Settles O39, by the format of the word: a low pin and a header in `COLLECTING` do not decode. -/
theorem placedWordIsRunNext : Obligations.PlacedWordIsRunNext := by
  unfold Obligations.PlacedWordIsRunNext
  intro s nbits w c i hc hi
  rw [State.withFetchWord, hc]
  cases c with
  | pin r =>
    by_cases hr : r = 1
    · subst hr; cases hi; exact step_offer _ s
    · rw [decode, if_neg hr] at hi
      cases hi
  | ev e => cases hi; exact step_offer _ s
  | wh x =>
    cases hs : s.st with
    | idle => rw [hs] at hi; cases hi; exact step_offerHeader hs _
    | collecting => rw [hs] at hi; cases hi

end Sys2Proof.Machine
end

section
/-! PROOFS. What every step keeps (10_state.md sections 2, 6 and 7): the invariants under each operation over the state, the fields
that a step only holds, the whole frame a dispatch carries, and the statements O18, O43, O45 to O47, O49 to O51, O53 and O54. -/

namespace Sys2Proof.Machine

/-! The invariants speak of the architectural state alone, and most of them of a frame in progress only. -/

theorem invariant_architectural_iff (s : State) : Invariant s.architectural ↔ Invariant s :=
  ⟨fun h => { h with }, fun h => { h with }⟩

theorem Invariant.of_architectural_eq {s t : State} (hi : Invariant s) (h : t.architectural = s.architectural) :
    Invariant t := by
  rwa [← invariant_architectural_iff, h, invariant_architectural_iff]

theorem Invariant.of_idle {s : State} (hs : s.st = .idle) (hcap : 1 ≤ s.maxPayload.toNat)
    (hcnt : s.cnt.toNat ≤ max s.hdrSize.toNat 1) (hform : s.pbuf.wf) (hrange : ∀ c ∈ s.pbuf, c.1 < s.maxPayload.toNat) :
    Invariant s where
  capacity := hcap
  typeNonzero := by simp [hs]
  headerHeld := by simp [hs]
  countInBuffer := by simp [hs]
  countBounded := hcnt
  bufferForm := hform
  bufferRange := hrange
  cellsHeld := by simp [hs]

theorem invariant_clearState {s : State} (hcap : 1 ≤ s.maxPayload.toNat) : Invariant (clearState s) :=
  .of_idle rfl hcap (by simp) .nil (by simp)

/-- R62: in `IDLE` no invariant is about the window. -/
theorem Invariant.setWindow {s : State} (hi : Invariant s) (hs : s.st = .idle) (w : Window) : Invariant (setWindow w s) :=
  .of_idle hs hi.capacity hi.countBounded hi.bufferForm hi.bufferRange

/-- R65: a frame begins with the header of a valid window and no byte. -/
theorem Invariant.retainHeader {s : State} (hi : Invariant s) (hv : hdrValid s.win = true) :
    Invariant (retainHeader (typeField s.win) (sizeField s.win) s) where
  capacity := hi.capacity
  typeNonzero _ := ((hdrValid_iff s.win).1 hv).1
  headerHeld _ := ⟨rfl, rfl, hv⟩
  countInBuffer _ := ⟨hi.capacity, .inl rfl⟩
  countBounded := by simp
  bufferForm := hi.bufferForm
  bufferRange := hi.bufferRange
  cellsHeld _ := by simp

/-- I4 after an append: the count before it was 0 or below the retained size (I3). -/
theorem Invariant.countBounded_appendByte {s : State} (hi : Invariant s) (hs : s.st = .collecting) :
    (s.cnt + 1#16).toNat ≤ max s.hdrSize.toNat 1 := by
  obtain ⟨hin, hlow⟩ := hi.countInBuffer hs
  rw [cnt_succ_toNat hin]
  omega

/-- Below the count after an append there are the cells from before and the cell just stored. -/
theorem Invariant.cellsHeld_appendByte {s : State} (hi : Invariant s) (hs : s.st = .collecting) (b : Byte) {i : Nat}
    (hlt : i < (s.cnt + 1#16).toNat) : ((appendByte b s).pbuf.lookup i).isSome = true := by
  have hin := (hi.countInBuffer hs).1
  rw [cnt_succ_toNat hin] at hlt
  by_cases h : i = s.cnt.toNat
  · rw [h, lookup_appendByte_self b hin]; rfl
  · rw [appendByte_pbuf, lookup_storeCell_other _ _ _ _ _ h]
    exact hi.cellsHeld hs i (by omega)

/-- A frame with more to come (R70): the count is below a size within the capacity, so the next append is inside too. -/
theorem Invariant.appendByte {s : State} (hi : Invariant s) (hs : s.st = .collecting)
    (ho : s.hdrSize.toNat ≤ s.maxPayload.toNat) (hn : (s.cnt + 1#16).toNat < s.hdrSize.toNat) (b : Byte) :
    Invariant (appendByte b s) where
  capacity := hi.capacity
  typeNonzero := hi.typeNonzero
  headerHeld := hi.headerHeld
  countInBuffer _ := ⟨Nat.lt_of_lt_of_le hn ho, .inr ⟨hn, ho⟩⟩
  countBounded := hi.countBounded_appendByte hs
  bufferForm := storeCell_keeps_wf _ _ _ _ hi.bufferForm
  bufferRange := storeCell_keeps_range _ _ _ _ hi.bufferRange
  cellsHeld _ _ := hi.cellsHeld_appendByte hs b

/-- The end of a frame (R72, R73), whose count may have met the capacity. -/
theorem Invariant.returnToIdle_appendByte {s : State} (hi : Invariant s) (hs : s.st = .collecting) (b : Byte) :
    Invariant (returnToIdle (Machine.appendByte b s)) :=
  .of_idle rfl hi.capacity (hi.countBounded_appendByte hs) (storeCell_keeps_wf _ _ _ _ hi.bufferForm)
    (storeCell_keeps_range _ _ _ _ hi.bufferRange)

/-- Settles O51: every end of a step is one of the operations above, up to the events to come and the output. -/
theorem stepKeepsTheInvariants : Obligations.StepKeepsTheInvariants := by
  unfold Obligations.StepKeepsTheInvariants
  intro s t hi h
  cases step_cases h with
  | reset hp ht => exact (invariant_clearState hi.capacity).of_architectural_eq (s := clearState s) (by rw [ht]; rfl)
  | quiet hp ht => exact hi.of_architectural_eq (by rw [ht]; rfl)
  | zeroType b hp hs hw ht => exact (hi.setWindow hs (shiftIn s.win b)).of_architectural_eq (by rw [ht]; rfl)
  | badCrc b hp hs hw hc ht => exact (hi.setWindow hs (shiftIn s.win b)).of_architectural_eq (by rw [ht]; rfl)
  | accept b hp hs hv ht =>
    exact ((hi.setWindow hs (shiftIn s.win b)).retainHeader hv).of_architectural_eq (by rw [ht]; rfl)
  | collect b hp hs ho hn ht => exact (hi.appendByte hs ho hn b).of_architectural_eq (by rw [ht]; rfl)
  | abort b hp hs ho ht => exact (hi.returnToIdle_appendByte hs b).of_architectural_eq (by rw [ht]; rfl)
  | done b hp hs ho hn ht => exact (hi.returnToIdle_appendByte hs b).of_architectural_eq (by rw [ht]; rfl)

/-- Settles O50: the reset state is a cleared one, and the free capacity is at least 1. -/
theorem resetStateMeetsTheInvariants : Obligations.ResetStateMeetsTheInvariants :=
  (invariant_clearState (s := State.reset) config_maxPayload_pos : Invariant State.reset)

/-- Settles O18: every field is listed in `State.reset`; the capacity is a 16-bit value above 0. -/
theorem resetStateHoldsTheListedValues : Obligations.ResetStateHoldsTheListedValues :=
  ⟨rfl, rfl, rfl, rfl, rfl, rfl, config_maxPayload_pos, Nat.le_of_lt_succ Config.maxPayload.isLt⟩

/-! The fields a step only holds. -/

theorem step_maxPayload {s t : State} (h : step s = .next t) : t.maxPayload = s.maxPayload := by
  cases step_cases h <;> subst t <;> rfl

/-- Settles O46: no end of a step writes the capacity. -/
theorem capacityIsStatic : Obligations.CapacityIsStatic := fun _ _ => step_maxPayload

theorem step_header_of_hdrAccept {s t : State} (h : step s = .next t) (ha : t.out.log = .hdrAccept) :
    t.hdrType = typeField t.win ∧ t.hdrSize = sizeField t.win := by
  cases step_cases h with
  | accept b hp hs hv ht => rw [ht]; exact ⟨rfl, rfl⟩
  | _ => subst t; cases ha

theorem step_header_of_reset {s t : State} (h : step s = .next t) (hr : (nextSample s).rst = true) :
    t.hdrType = 0#16 ∧ t.hdrSize = 0#16 := by
  rw [step_next_unique h (step_reset hr)]
  exact ⟨rfl, rfl⟩

theorem step_header_held {s t : State} (h : step s = .next t) (hr : (nextSample s).rst = false)
    (ha : t.out.log ≠ .hdrAccept) : t.hdrType = s.hdrType ∧ t.hdrSize = s.hdrSize := by
  cases step_cases h with
  | reset hp ht => rw [hr] at hp; cases hp
  | accept b hp hs hv ht => subst t; exact absurd rfl ha
  | _ => subst t; exact ⟨rfl, rfl⟩

/-- Settles O43: one lemma a clause. -/
theorem retainedHeaderIsHeld : Obligations.RetainedHeaderIsHeld := by
  unfold Obligations.RetainedHeaderIsHeld
  exact fun s t h => ⟨step_header_of_hdrAccept h, step_header_of_reset h, step_header_held h⟩

/-- The framer state leaves `IDLE` by an acceptance only (R11). -/
theorem step_st_of_idle {s t : State} (h : step s = .next t) (hs : s.st = .idle) (ha : t.out.log ≠ .hdrAccept) :
    t.st = .idle := by
  cases step_cases h with
  | accept b hp hs' hv ht => subst t; exact absurd rfl ha
  | collect b hp hc ho hn ht => rw [hs] at hc; cases hc
  | quiet hp ht => subst t; exact hs
  | zeroType b hp hs' hw ht => subst t; exact hs
  | badCrc b hp hs' hw hc ht => subst t; exact hs
  | _ => subst t; rfl

/-- The framer state leaves `COLLECTING` by reset, the abort and the completion only (R77). -/
theorem step_st_of_collecting {s t : State} (h : step s = .next t) (hs : s.st = .collecting) :
    t.st = .collecting ∨ (nextSample s).rst = true ∨
      (samplesByte (nextSample s) = true ∧ (t.out.log = .abortOversize ∨ t.out.log = .frameDone)) := by
  cases step_cases h with
  | reset hp ht => exact .inr (.inl hp)
  | abort b hp hs' ho ht => subst t; exact .inr (.inr ⟨hp.byte_eq, .inl rfl⟩)
  | done b hp hs' ho hn ht => subst t; exact .inr (.inr ⟨hp.byte_eq, .inr rfl⟩)
  | quiet hp ht => subst t; exact .inl hs
  | zeroType b hp hs' hw ht => subst t; exact .inl hs
  | badCrc b hp hs' hw hc ht => subst t; exact .inl hs
  | accept b hp hs' hv ht => subst t; exact .inl rfl
  | collect b hp hs' ho hn ht => subst t; exact .inl hs

theorem step_st_of_noByte {s t : State} (h : step s = .next t) (hn : samplesNoByte (nextSample s) = true) :
    t.st = s.st := by
  rw [step_next_unique h (step_noByte hn)]
  rfl

/-- Settles O47: of the ends `step_st_of_collecting` lists, an event without a byte is none. -/
theorem onlyBytesOrResetEndAFrame : Obligations.OnlyBytesOrResetEndAFrame := by
  unfold Obligations.OnlyBytesOrResetEndAFrame
  intro s t h hs
  refine ⟨fun ht => ?_, fun hn => ⟨(step_st_of_noByte h hn).trans hs, step_cnt_of_noByte h hn⟩⟩
  rcases step_st_of_collecting h hs with hc | hend
  · rw [ht] at hc; cases hc
  · exact hend

/-- Settles O54: without an acceptance the header and the count are held or reset, and both are 0 already. -/
theorem nothingIsRetainedBeforeAcceptance : Obligations.NothingIsRetainedBeforeAcceptance := by
  unfold Obligations.NothingIsRetainedBeforeAcceptance
  intro s t hs htype hsize hcnt h ha
  refine ⟨step_st_of_idle h hs ha, ?_⟩
  rcases sample_cases (nextSample s) with hr | ⟨b, hb⟩ | hn
  · obtain ⟨ht, hz⟩ := step_header_of_reset h hr
    exact ⟨ht, hz, step_cnt_of_reset h hr⟩
  · obtain ⟨ht, hz⟩ := step_header_held h hb.rst_eq ha
    exact ⟨ht.trans htype, hz.trans hsize, (step_cnt_of_byte_idle_not_accepted h hb.byte_eq hs ha).trans hcnt⟩
  · obtain ⟨ht, hz⟩ := step_header_held h (samplesByte_of_noByte hn).2 ha
    exact ⟨ht.trans htype, hz.trans hsize, (step_cnt_of_noByte h hn).trans hcnt⟩

/-! The two stores of R23. -/

theorem step_pbuf_of_byte_idle {s t : State} {b : Byte} (h : step s = .next t) (hp : SamplesByte (nextSample s) b)
    (hs : s.st = .idle) : t.pbuf = s.pbuf := by
  rw [step_byte_idle hp hs] at h
  rcases execByteIdle_cases b (consume s) with ⟨_, hx⟩ | ⟨_, _, hx⟩ | ⟨_, hx⟩ <;> cases h.symm.trans hx <;> rfl

theorem step_pbuf_of_byte_collecting {s t : State} {b : Byte} (h : step s = .next t) (hp : SamplesByte (nextSample s) b)
    (hs : s.st = .collecting) : t.pbuf = (appendByte b s).pbuf := by
  obtain ⟨u, hx, hpbuf, -⟩ := execByteCollecting_appends b (consume s)
  rw [step_next_unique h ((step_byte_collecting hp hs).trans hx), hpbuf]
  rfl

theorem step_stores_of_noByte {s t : State} (h : step s = .next t) (hn : samplesNoByte (nextSample s) = true) :
    t.win = s.win ∧ t.pbuf = s.pbuf := by
  rw [step_next_unique h (step_noByte hn)]
  exact ⟨rfl, rfl⟩

/-- Settles O45, by whether the sample is a byte and, for a byte, the framer state. -/
theorem eachByteGoesToOneStore : Obligations.EachByteGoesToOneStore := by
  unfold Obligations.EachByteGoesToOneStore
  intro s t h hr
  rcases sample_cases (nextSample s) with hr' | ⟨b, hb⟩ | hn
  · rw [hr] at hr'; cases hr'
  · rw [hb.data_eq]
    refine ⟨step_pbuf_of_byte_idle h hb, fun hs => (step_fields_of_byte_collecting h hb hs).1, fun _ hs => ?_,
      fun _ hs hi => ?_, fun hnb => ?_⟩
    · rw [step_win_of_byte_idle h hb hs]; rfl
    · rw [step_pbuf_of_byte_collecting h hb hs, lookup_appendByte_self b hi]
    · rw [hb.byte_eq] at hnb; cases hnb
  · obtain ⟨hwin, hpbuf⟩ := step_stores_of_noByte h hn
    have hnb := (samplesByte_of_noByte hn).1
    exact ⟨fun _ => hpbuf, fun _ => hwin, by simp [hnb], by simp [hnb], fun _ => ⟨hwin, hpbuf⟩⟩

/-! The dispatch (R78, R95). -/

theorem heldFrame_payload_getElem? (s : State) {i : Nat} (h : i < s.hdrSize.toNat) :
    (heldFrame s).payload[i]? = some (s.pbuf.read i) := payloadPrefix_getElem? s.pbuf _ _ h

/-- The one case of a step that dispatches, with the frame it presents. -/
theorem step_of_dispatch {s t : State} {d : DispatchRecord} (h : step s = .next t) (hd : t.out.dispatch = some d) :
    ∃ b, SamplesByte (nextSample s) b ∧ s.st = .collecting ∧ s.hdrSize.toNat ≤ s.maxPayload.toNat ∧
      s.hdrSize.toNat ≤ (s.cnt + 1#16).toNat ∧ t.pbuf = (appendByte b s).pbuf ∧ t.hdrType = s.hdrType ∧
      t.hdrSize = s.hdrSize ∧ d = heldFrame t := by
  cases step_cases h with
  | done b hp hs ho hn ht =>
    subst t
    cases hd
    exact ⟨b, hp, hs, ho, hn, rfl, rfl, rfl, rfl⟩
  | _ => subst t; cases hd

/-- Settles O49: the ports read the state that still holds the frame presented. -/
theorem outputPortsPresentTheDispatch : Obligations.OutputPortsPresentTheDispatch := by
  unfold Obligations.OutputPortsPresentTheDispatch
  intro s t h
  rcases step_out_cases h with ⟨hlog, hnone⟩ | hdone
  · simp [portDispValid, hlog, hnone]
  · rw [hdone]
    refine ⟨by simp [portDispValid, hdone], fun d hd => ?_⟩
    cases hd
    refine ⟨rfl, rfl, fun i hi => ?_⟩
    have hlt : i < 65536 := Nat.lt_trans hi t.hdrSize.isLt
    rw [heldFrame_payload_getElem? t hi, portBufferRead, BitVec.toNat_ofNat, Nat.mod_eq_of_lt hlt]

theorem read_of_lookup_isSome {m : Memory} {i : Nat} (h : (m.lookup i).isSome = true) : some (m.read i) = m.lookup i := by
  obtain ⟨b, hb⟩ := Option.isSome_iff_exists.1 h
  rw [Memory.read, hb, Option.getD_some]

/-- Settles O53: the size is met by the count after the append, so every cell of the frame is written (I5); under I3 the cell of this
step is the frame's last. -/
theorem dispatchCarriesAWholeFrame : Obligations.DispatchCarriesAWholeFrame := by
  unfold Obligations.DispatchCarriesAWholeFrame
  intro s t d hi h hd
  obtain ⟨b, hb, hs, ho, hn, hpbuf, htype, hsize, rfl⟩ := step_of_dispatch h hd
  have hin := (hi.countInBuffer hs).1
  have hfields : (heldFrame t).ftype = s.hdrType ∧ (heldFrame t).size = s.hdrSize := ⟨htype, hsize⟩
  rw [hfields.1, hfields.2, hb.data_eq]
  refine ⟨hb.byte_eq, hs, hi.typeNonzero hs, rfl, rfl, ho, ?_, fun i hlt => ?_, fun h1 => ?_⟩
  · rw [heldFrame_payload_length, hfields.2]
  · rw [heldFrame_payload_getElem? t (hsize ▸ hlt), hpbuf]
    exact read_of_lookup_isSome (hi.cellsHeld_appendByte hs b (Nat.lt_of_lt_of_le hlt hn))
  · have hlt := hi.cnt_lt_hdrSize hs h1
    have hlast : s.hdrSize.toNat - 1 = s.cnt.toNat := by
      rw [cnt_succ_toNat hin] at hn
      omega
    rw [hlast, heldFrame_payload_getElem? t (hsize ▸ hlt), hpbuf, read_appendByte b hin, if_pos rfl]

end Sys2Proof.Machine
end

section
/-! PROOFS. The CRC as an XOR-linear code (40_crc16.md section 5): linearity in the bytes, the byte-table form, and the syndrome of an
error pattern, which alone decides whether a corrupted header passes; the statements O12 to O17. The syndrome of the header bit of
weight `2^p` is `x^p` modulo the polynomial of R48, so one bit and three bits are caught by parity (the polynomial has an even number
of terms), two bits by the order of `x`, and a burst because multiplying by `x` is injective. -/

namespace Sys2Proof.Machine

/-- Settles O12: each row is computed. -/
theorem crcReferenceValues : Obligations.CrcReferenceValues := by
  unfold Obligations.CrcReferenceValues
  decide +kernel

/-! Linearity (R58). -/

theorem crcFrom_cons (a : U16) (b : Byte) (l : List Byte) : crcFrom a (b :: l) = crcFrom (crcByteStep a b) l := rfl

theorem crcFrom_xor (a a' : U16) (m e : List Byte) (h : m.length = e.length) :
    crcFrom (a ^^^ a') (List.zipWith (· ^^^ ·) m e) = crcFrom a m ^^^ crcFrom a' e := by
  induction m generalizing a a' e with
  | nil =>
    obtain rfl := List.eq_nil_of_length_eq_zero h.symm
    rfl
  | cons b m ih =>
    cases e with
    | nil => cases h
    | cons c e =>
      rw [List.zipWith_cons_cons, crcFrom_cons, crcFrom_cons, crcFrom_cons, crcByteStep_xor]
      exact ih _ _ e (Nat.succ.inj h)

/-- Settles O14: `crcFrom_xor` with the initial values `0xFFFF` and 0. -/
theorem crcIsLinearInTheBytes : Obligations.CrcIsLinearInTheBytes := by
  unfold Obligations.CrcIsLinearInTheBytes
  intro m e h
  simpa [crc16, crc16Zero] using crcFrom_xor crcInit 0#16 m e h

/-- Two XOR-linear functions that agree at 0 and on the single bits are equal: take the highest bit away. -/
theorem xorLinear_eq {n : Nat} {α : Type} {add : α → α → α} {f g : BitVec n → α} (hf : ∀ a b, f (a ^^^ b) = add (f a) (f b))
    (hg : ∀ a b, g (a ^^^ b) = add (g a) (g b)) (hzero : f 0#n = g 0#n) (hbit : ∀ i < n, f (1#n <<< i) = g (1#n <<< i))
    (x : BitVec n) : f x = g x := by
  have hlow : ∀ j ≤ n, ∀ x : BitVec n, (∀ i, j ≤ i → x.getLsbD i = false) → f x = g x := by
    intro j
    induction j with
    | zero =>
      intro _ x hx
      obtain rfl : x = 0#n := BitVec.eq_of_getLsbD_eq fun i _ => by simp [hx i (Nat.zero_le i)]
      exact hzero
    | succ j ih =>
      intro hj x hx
      cases hxj : x.getLsbD j with
      | false =>
        refine ih (by omega) x fun i hi => ?_
        rcases Nat.eq_or_lt_of_le hi with rfl | hlt
        · exact hxj
        · exact hx i hlt
      | true =>
        have hrest : f (x ^^^ 1#n <<< j) = g (x ^^^ 1#n <<< j) := by
          refine ih (by omega) _ fun i hi => ?_
          rcases Nat.eq_or_lt_of_le hi with rfl | hlt
          · simp [hxj]; omega
          · simp [hx i hlt]; omega
        have hx' : x = (x ^^^ 1#n <<< j) ^^^ 1#n <<< j := by rw [BitVec.xor_assoc, BitVec.xor_self, BitVec.xor_zero]
        rw [hx', hf, hg, hrest, hbit j (by omega)]
  exact hlow n le_rfl x fun i hi => BitVec.getLsbD_of_ge x i hi

/-! The byte-table form (R57). An accumulator is the sum of its high byte plus the data byte, of that data byte again, and of its low
byte: the first part is what the table lists, the second meets the data byte and leaves 0, and the third is only shifted. -/

/-- The printed entries, each computed by the byte step. -/
theorem crcTable_eq : crcTable = (List.range 256).map fun i => crcByteStep (BitVec.ofNat 16 (i * 256)) 0 := by
  decide +kernel

theorem crcTable_length : crcTable.length = 256 := by
  rw [crcTable_eq, List.length_map, List.length_range]

theorem crcTable_getElem? (i : Nat) (hi : i < 256) :
    crcTable[i]? = some (crcByteStep (BitVec.ofNat 16 (i * 256)) 0) := by
  rw [crcTable_eq, List.getElem?_map, List.getElem?_range hi, Option.map_some]

theorem joinBytes_zero_low (x : Byte) : joinBytes x 0 = BitVec.ofNat 16 (x.toNat * 256) := by
  apply BitVec.eq_of_toNat_eq
  rw [joinBytes, BitVec.toNat_append, BitVec.toNat_ofNat, Nat.shiftLeft_eq]
  simp
  omega

theorem joinBytes_xor (a b c d : Byte) : joinBytes (a ^^^ c) (b ^^^ d) = joinBytes a b ^^^ joinBytes c d := by
  apply BitVec.eq_of_getLsbD_eq
  intro i _
  simp only [joinBytes_bit, BitVec.getLsbD_xor]
  split <;> rfl

theorem crcByteStep_same_byte (b : Byte) : crcByteStep (joinBytes b 0) b = 0#16 := by
  refine xorLinear_eq (f := fun b => crcByteStep (joinBytes b 0) b) (g := fun _ => 0#16) (add := (· ^^^ ·))
    (fun a b => ?_) (fun _ _ => rfl) (by decide) (by decide) b
  rw [← crcByteStep_xor, ← joinBytes_xor, BitVec.xor_self]
  rfl

theorem crcByteStep_low_byte (l : Byte) : crcByteStep (joinBytes 0 l) 0 = joinBytes l 0 := by
  refine xorLinear_eq (f := fun l => crcByteStep (joinBytes 0 l) 0) (g := fun l => joinBytes l 0) (add := (· ^^^ ·))
    (fun a b => ?_) (fun a b => ?_) (by decide) (by decide) l
  · rw [← crcByteStep_xor, ← joinBytes_xor, BitVec.xor_self]
    rfl
  · rw [← joinBytes_xor, BitVec.xor_self]
    rfl

theorem shiftLeft_eight (v : U16) : v <<< 8 = joinBytes (loByte v) 0 := by
  apply BitVec.eq_of_getLsbD_eq
  intro i hi
  rw [joinBytes_bit, loByte, BitVec.getLsbD_extractLsb', BitVec.getLsbD_shiftLeft]
  split
  · simp [*]
  · have : i - 8 < 8 := by omega
    simp [*]

theorem crcTable_getD (x : Byte) : crcTable.getD x.toNat 0 = crcByteStep (joinBytes x 0) 0 := by
  rw [List.getD_eq_getElem?_getD, crcTable_getElem? _ x.isLt, Option.getD_some, joinBytes_zero_low]

theorem crcByteStep_eq_byTable (acc : U16) (b : Byte) : crcByteStep acc b = crcByteStepByTable acc b := by
  have hacc : acc = joinBytes (hiByte acc ^^^ b) 0 ^^^ (joinBytes b 0 ^^^ joinBytes 0 (loByte acc)) := by
    rw [← joinBytes_xor, ← joinBytes_xor]
    simp
  calc crcByteStep acc b
      = crcByteStep (joinBytes (hiByte acc ^^^ b) 0 ^^^ (joinBytes b 0 ^^^ joinBytes 0 (loByte acc)))
          (0 ^^^ (b ^^^ 0)) := by rw [← hacc]; simp
    _ = crcByteStep (joinBytes (hiByte acc ^^^ b) 0) 0 ^^^
          (crcByteStep (joinBytes b 0) b ^^^ crcByteStep (joinBytes 0 (loByte acc)) 0) := by
        rw [crcByteStep_xor, crcByteStep_xor]
    _ = crcTable.getD (hiByte acc ^^^ b).toNat 0 ^^^ acc <<< 8 := by
        rw [crcByteStep_same_byte, crcByteStep_low_byte, crcTable_getD, shiftLeft_eight, BitVec.zero_xor]
    _ = crcByteStepByTable acc b := BitVec.xor_comm _ _

/-- Settles O13: the printed entries are computed; the two byte steps agree by `crcByteStep_eq_byTable`. -/
theorem byteTableComputesTheByteStep : Obligations.ByteTableComputesTheByteStep :=
  ⟨crcTable_length, crcTable_getElem?, crcByteStep_eq_byTable⟩

/-! The syndrome of an error pattern. -/

/-- What the crc comparison sees of an error pattern over the 48 bits of a header: 0 when it sees nothing. -/
def syndrome (e : HeaderWord) : U16 := crc16Zero (crcSpan (windowOfWord e)) ^^^ crcField (windowOfWord e)

theorem syndrome_eq_zero_iff (e : HeaderWord) :
    syndrome e = 0#16 ↔ crc16Zero (crcSpan (windowOfWord e)) = crcField (windowOfWord e) := BitVec.xor_eq_zero_iff

theorem crcSpan_windowOfWord_xor (a b : HeaderWord) :
    crcSpan (windowOfWord (a ^^^ b)) =
      List.zipWith (· ^^^ ·) (crcSpan (windowOfWord a)) (crcSpan (windowOfWord b)) := by
  simp [crcSpan, windowOfWord, BitVec.extractLsb'_xor]

theorem crcField_windowOfWord_xor (a b : HeaderWord) :
    crcField (windowOfWord (a ^^^ b)) = crcField (windowOfWord a) ^^^ crcField (windowOfWord b) := by
  simp [crcField, windowOfWord, BitVec.extractLsb'_xor, joinBytes_xor]

theorem syndrome_xor (a b : HeaderWord) : syndrome (a ^^^ b) = syndrome a ^^^ syndrome b := by
  have hspan : crc16Zero (crcSpan (windowOfWord (a ^^^ b))) =
      crc16Zero (crcSpan (windowOfWord a)) ^^^ crc16Zero (crcSpan (windowOfWord b)) := by
    rw [crcSpan_windowOfWord_xor]
    exact crcFrom_xor 0#16 0#16 _ _ rfl
  rw [syndrome, syndrome, syndrome, hspan, crcField_windowOfWord_xor]
  ac_rfl

theorem syndrome_zero : syndrome 0#48 = 0#16 := by
  have h := syndrome_xor 0#48 0#48
  rwa [BitVec.xor_self, BitVec.xor_self] at h

/-- A corrupted valid header passes the crc comparison exactly when the syndrome of its error pattern is 0. -/
theorem crcMatches_xor_iff {h : HeaderWord} (hv : hdrValid (windowOfWord h) = true) (e : HeaderWord) :
    crcMatches (windowOfWord (h ^^^ e)) = true ↔ syndrome e = 0#16 := by
  have hspan : crc16 (crcSpan (windowOfWord (h ^^^ e))) =
      crcField (windowOfWord h) ^^^ crc16Zero (crcSpan (windowOfWord e)) := by
    rw [crcSpan_windowOfWord_xor, ← ((hdrValid_iff _).1 hv).2]
    exact crcIsLinearInTheBytes (crcSpan (windowOfWord h)) (crcSpan (windowOfWord e)) rfl
  rw [syndrome_eq_zero_iff, crcMatches, beq_iff_eq, hspan, crcField_windowOfWord_xor]
  exact BitVec.xor_right_inj _

/-- Settles O15, by `crcMatches_xor_iff`. -/
theorem corruptionPassesByItsPatternAlone : Obligations.CorruptionPassesByItsPatternAlone := by
  unfold Obligations.CorruptionPassesByItsPatternAlone
  intro w e hv
  rw [crcMatches_xor_iff (by rwa [windowOfWord_headerWordOf]), syndrome_eq_zero_iff, windowOfWord_headerWordOf]

theorem crcMatches_xor_eq_false {h e : HeaderWord} (hv : hdrValid (windowOfWord h) = true) (he : syndrome e ≠ 0#16) :
    crcMatches (windowOfWord (h ^^^ e)) = false :=
  Bool.eq_false_iff.2 (mt (crcMatches_xor_iff hv e).1 he)

/-! The bit step with data 0 multiplies by `x` modulo the polynomial. -/

/-- Multiplication by `x` (R49 with `d = 0`). -/
def mulX (a : U16) : U16 := crcBitStep a false

theorem mulX_xor (a b : U16) : mulX (a ^^^ b) = mulX a ^^^ mulX b := crcBitStep_xor a b false false

/-- Bit 0 of the result is the bit shifted out, and the others are those below it with the feedback undone. -/
theorem mulX_eq_zero {a : U16} (h : mulX a = 0#16) : a = 0#16 := by
  have hbit : ∀ i < 16, ((decide (1 ≤ i) && a.getLsbD (i - 1)) ^^ (a.getLsbD 15 && (i == 0 || i == 5 || i == 12))) = false := by
    intro i hi
    have := crcBitStep_bit a false hi
    rw [← mulX, h, Bool.xor_false] at this
    simpa using this.symm
  have htop : a.getLsbD 15 = false := by simpa using hbit 0 (by decide)
  apply BitVec.eq_of_getLsbD_eq
  intro i hi
  rcases Nat.lt_or_ge i 15 with hlt | hge
  · simp only [htop, Bool.false_and, Bool.xor_false] at hbit
    simpa using hbit (i + 1) (by omega)
  · obtain rfl : i = 15 := by omega
    simpa using htop

theorem mulX_iterate_xor (k : Nat) (a b : U16) : mulX^[k] (a ^^^ b) = mulX^[k] a ^^^ mulX^[k] b := by
  induction k generalizing a b with
  | zero => rfl
  | succ k ih => rw [Function.iterate_succ_apply, Function.iterate_succ_apply, Function.iterate_succ_apply, mulX_xor, ih]

theorem mulX_iterate_eq_zero {k : Nat} {a : U16} (h : mulX^[k] a = 0#16) : a = 0#16 := by
  induction k generalizing a with
  | zero => exact h
  | succ k ih => exact mulX_eq_zero (ih h)

/-- The syndrome of one header bit: `x^p`. -/
theorem syndrome_bit : ∀ p < 48, syndrome (1#48 <<< p) = mulX^[p] 1#16 := by decide +kernel

/-! One bit and three bits: parity. -/

/-- The parity of the `n` lowest bits. -/
def parityBelow : Nat → U16 → Bool
  | 0, _ => false
  | n + 1, v => v.getLsbD n ^^ parityBelow n v

/-- The parity of the sixteen bits. -/
def parity (v : U16) : Bool := parityBelow 16 v

theorem parityBelow_xor (n : Nat) (a b : U16) : parityBelow n (a ^^^ b) = (parityBelow n a ^^ parityBelow n b) := by
  induction n with
  | zero => rfl
  | succ n ih =>
    rw [parityBelow, parityBelow, parityBelow, BitVec.getLsbD_xor, ih]
    simp only [Bool.xor_assoc, Bool.xor_left_comm (b.getLsbD n)]

theorem parity_xor (a b : U16) : parity (a ^^^ b) = (parity a ^^ parity b) := parityBelow_xor 16 a b

/-- The bit shifted out is one of four terms that are added back or not, an even number in all. -/
theorem parity_mulX (a : U16) : parity (mulX a) = parity a :=
  xorLinear_eq (f := fun a => parity (mulX a)) (add := Bool.xor) (fun a b => by rw [mulX_xor, parity_xor]) parity_xor
    (by decide) (by decide) a

theorem parity_mulX_iterate_one (p : Nat) : parity (mulX^[p] 1#16) = true := by
  induction p with
  | zero => decide
  | succ p ih => rw [Function.iterate_succ_apply', parity_mulX, ih]

theorem parity_syndrome_bit (p : Nat) (hp : p < 48) : parity (syndrome (1#48 <<< p)) = true := by
  rw [syndrome_bit p hp, parity_mulX_iterate_one]

theorem ne_zero_of_parity {v : U16} (h : parity v = true) : v ≠ 0#16 := by
  rintro rfl
  revert h
  decide

/-! Two bits: the order of `x`. -/

theorem mulX_iterate_one_ne_one {d : Nat} (h0 : d ≠ 0) (hd : d < 48) : mulX^[d] 1#16 ≠ 1#16 := by
  obtain ⟨k, rfl⟩ := Nat.exists_eq_succ_of_ne_zero h0
  have hnot : 1#16 ∉ List.iterate mulX (mulX 1#16) 47 := by decide
  exact fun h => hnot (List.mem_iterate.2 ⟨k, by omega, h.symm⟩)

theorem syndrome_bit_ne {p q : Nat} (hq : q < 48) (hpq : p < q) :
    syndrome (1#48 <<< p) ^^^ syndrome (1#48 <<< q) ≠ 0#16 := by
  rw [syndrome_bit p (by omega), syndrome_bit q hq, ← Nat.add_sub_cancel' hpq.le, Function.iterate_add_apply,
    ← mulX_iterate_xor]
  intro h
  exact mulX_iterate_one_ne_one (d := q - p) (by omega) (by omega) (BitVec.xor_eq_zero_iff.1 (mulX_iterate_eq_zero h)).symm

/-- One bit of a header word flipped. -/
def flipBit (x : HeaderWord) (p : Fin 48) : HeaderWord := x ^^^ (1#48 <<< p.val)

/-- The error pattern that flips the bits `ps`. -/
def flips (ps : List (Fin 48)) : HeaderWord := ps.foldl flipBit 0#48

theorem foldl_flipBit (h : HeaderWord) (ps : List (Fin 48)) : ps.foldl flipBit h = h ^^^ flips ps := by
  induction ps generalizing h with
  | nil => exact BitVec.xor_zero.symm
  | cons p ps ih => rw [flips, List.foldl_cons, List.foldl_cons, ih, ih, flipBit, flipBit, BitVec.zero_xor, BitVec.xor_assoc]

theorem syndrome_flips_ne_zero (ps : List (Fin 48)) (hnd : ps.Nodup) (h1 : 1 ≤ ps.length) (h3 : ps.length ≤ 3) :
    syndrome (flips ps) ≠ 0#16 := by
  match ps with
  | [p] =>
    simpa [flips, flipBit] using ne_zero_of_parity (parity_syndrome_bit p p.isLt)
  | [p, q] =>
    have hne : p.val ≠ q.val := fun h => by simp [Fin.ext h] at hnd
    simp only [flips, flipBit, List.foldl_cons, List.foldl_nil, BitVec.zero_xor, syndrome_xor]
    rcases Nat.lt_or_gt_of_ne hne with hlt | hgt
    · exact syndrome_bit_ne q.isLt hlt
    · rw [BitVec.xor_comm]
      exact syndrome_bit_ne p.isLt hgt
  | [p, q, r] =>
    apply ne_zero_of_parity
    simp only [flips, flipBit, List.foldl_cons, List.foldl_nil, BitVec.zero_xor, syndrome_xor, parity_xor]
    simp [parity_syndrome_bit]
  | _ :: _ :: _ :: _ :: _ =>
    simp only [List.length_cons] at h3
    omega

/-- Settles O16: parity for one and three bits, the order of `x` for two. -/
theorem oneToThreeBitErrorsAreDetected : Obligations.OneToThreeBitErrorsAreDetected := by
  unfold Obligations.OneToThreeBitErrorsAreDetected
  intro h ps hv hnd h1 h3
  have hfold := foldl_flipBit h ps
  unfold flipBit at hfold
  rw [hfold]
  exact crcMatches_xor_eq_false hv (syndrome_flips_ne_zero ps hnd h1 h3)

/-! Bursts. -/

theorem setWidth_bit_shiftLeft {i : Nat} (hi : i < 16) (k : Nat) :
    (1#16 <<< i).setWidth 48 <<< k = 1#48 <<< (k + i) := by
  apply BitVec.eq_of_getLsbD_eq
  intro j hj
  rw [Bool.eq_iff_iff]
  simp [BitVec.getLsbD_shiftLeft, BitVec.getLsbD_setWidth, BitVec.getLsbD_one]
  omega

/-- The syndrome of sixteen bits placed `k` bits up is `x^k` times them. -/
theorem syndrome_burst {k : Nat} (hk : k ≤ 32) (e : BitVec 16) : syndrome (e.setWidth 48 <<< k) = mulX^[k] e := by
  refine xorLinear_eq (f := fun e => syndrome (e.setWidth 48 <<< k)) (g := mulX^[k]) (add := (· ^^^ ·))
    (fun a b => ?_) (mulX_iterate_xor k) ?_ (fun i hi => ?_) e
  · simp only [BitVec.setWidth_xor, BitVec.shiftLeft_xor_distrib, syndrome_xor]
  · rw [BitVec.setWidth_zero, BitVec.zero_shiftLeft, syndrome_zero, Function.iterate_fixed (x := 0#16) (by decide)]
  · have hlow : ∀ i < 16, mulX^[i] 1#16 = 1#16 <<< i := by decide
    simp only [setWidth_bit_shiftLeft hi]
    rw [syndrome_bit _ (by omega), Function.iterate_add_apply, hlow i hi]

/-- Settles O17: a nonzero burst times `x^k` is nonzero; the four-bit error is computed. -/
theorem burstErrorsAreDetected : Obligations.BurstErrorsAreDetected := by
  unfold Obligations.BurstErrorsAreDetected
  refine ⟨fun h e k hv he hk => crcMatches_xor_eq_false hv ?_, by decide +kernel⟩
  rw [syndrome_burst hk]
  exact mt mulX_iterate_eq_zero he

end Sys2Proof.Machine
end

section
/-! PROOFS. The cells of the buffer (20_memory.md sections 1 and 4) and the byte taken in `COLLECTING` (42_collecting_dispatch.md
sections 1 and 3): the statements O29, O34, O35 and O36. -/

namespace Sys2Proof.Machine

/-! The cells of the buffer (R9, R16). -/

/-- Settles O36: the laws of a store, at the cell stored to and at every other. -/
theorem payloadCellsReadBack : Obligations.PayloadCellsReadBack := by
  unfold Obligations.PayloadCellsReadBack
  intro m cap i b
  refine ⟨fun hi => ?_, fun j hj => ⟨?_, lookup_storeCell_other m cap i j b hj⟩, storeCell_outside m b,
    storeCell_keeps_wf m cap i b, storeCell_keeps_range m cap i b⟩
  · rw [read_storeCell, if_pos ⟨rfl, hi⟩]
  · rw [read_storeCell, if_neg fun h => hj h.1]

/-! A Collecting byte (R70, R76). -/

/-- Settles O29: below the size, the step is the append with code `COLLECT`. -/
theorem collectingByteIsAppended : Obligations.CollectingByteIsAppended := by
  unfold Obligations.CollectingByteIsAppended
  intro s b hs hi ho hn
  exact ⟨_, (exec_byteCollecting b s).trans (execByteCollecting_collect ho (cnt_succ_toNat hi ▸ hn)), cnt_succ_toNat hi,
    read_appendByte b hi, lookup_appendByte_self b hi, rfl, hs, rfl, rfl, rfl, rfl, rfl⟩

/-- Settles O34: neither test looks at the byte, and the payload's length is the size. -/
theorem payloadBytesAreNotExamined : Obligations.PayloadBytesAreNotExamined := by
  unfold Obligations.PayloadBytesAreNotExamined
  intro s t u b c ht hu
  rw [exec_byteCollecting] at ht hu
  rcases execByteCollecting_cases b s with ⟨ho, hx⟩ | ⟨ho, hn, hx⟩ | ⟨ho, hn, hx⟩ <;> cases ht.symm.trans hx
  · cases hu.symm.trans (execByteCollecting_abort ho)
    exact ⟨rfl, rfl, rfl, rfl, rfl, rfl, rfl⟩
  · cases hu.symm.trans (execByteCollecting_done ho hn)
    refine ⟨rfl, rfl, rfl, rfl, rfl, rfl, ?_⟩
    simp [heldFrame]
  · cases hu.symm.trans (execByteCollecting_collect ho hn)
    exact ⟨rfl, rfl, rfl, rfl, rfl, rfl, rfl⟩

/-- An append outside the buffer only counts (log entry 5). -/
theorem appendByte_outside {s : State} (b : Byte) (h : s.maxPayload.toNat ≤ s.cnt.toNat) :
    appendByte b s = { s with cnt := s.cnt + 1#16 } := by
  rw [appendByte, storeCell_outside _ _ h]

/-- A count that falls by counting is the largest one. -/
theorem cnt_eq_max_of_succ_lt {c : U16} (h : (c + 1#16).toNat < c.toNat) : c = 65535#16 := by
  rw [BitVec.toNat_add] at h
  bv_omega

/-- Settles O35: the three ends of a Collecting byte, after an append that stores nothing. -/
theorem appendOutsideTheBufferStoresNothing : Obligations.AppendOutsideTheBufferStoresNothing := by
  unfold Obligations.AppendOutsideTheBufferStoresNothing
  intro s b hs hout
  rw [exec_byteCollecting]
  rcases execByteCollecting_cases b s with ⟨ho, hx⟩ | ⟨ho, hn, hx⟩ | ⟨ho, hn, hx⟩ <;>
    rw [hx, appendByte_outside b hout]
  · exact ⟨_, rfl, rfl, rfl, rfl, rfl, rfl, rfl, rfl, fun _ => ⟨rfl, rfl⟩, fun h => absurd ho h.not_gt,
      fun h => absurd ho h.not_gt⟩
  · exact ⟨_, rfl, rfl, rfl, rfl, rfl, rfl, rfl, rfl, fun h => absurd ho h.not_ge, fun _ _ => ⟨rfl, rfl⟩,
      fun _ h => absurd hn h.not_ge⟩
  · exact ⟨_, rfl, rfl, rfl, rfl, rfl, rfl, rfl, rfl, fun h => absurd ho h.not_ge, fun _ h => absurd hn h.not_gt,
      fun _ _ => ⟨cnt_eq_max_of_succ_lt (by omega), hs, rfl⟩⟩

end Sys2Proof.Machine
end

section
/-! PROOFS. Runs (43_source_control_events.md R79 to R85, 41_idle_header_recognition.md section 3): every run goes through, a step
reads of the events to come only the first, an event without a byte can be taken out, dispatches are two bytes apart; and the
statements O22, O48, O52 and O55. -/

namespace Sys2Proof.Machine

/-! Every run goes through, one event a step. -/

theorem step_input {s t : State} (h : step s = .next t) : t.input = s.input.tail := by
  cases step_cases h <;> subst t <;> rfl

theorem runFor_total (k : Nat) (s : State) :
    ∃ t, runFor k s = .next t ∧ t.input = s.input.drop k ∧ (outputsFor k s).length = k := by
  induction k generalizing s with
  | zero => exact ⟨s, rfl, rfl, rfl⟩
  | succ k ih =>
    obtain ⟨u, hu, -⟩ := step_total s
    obtain ⟨t, hrun, hinput, hlen⟩ := ih u
    refine ⟨t, by rw [runFor_succ k hu, hrun], ?_, by rw [outputsFor_succ k hu, List.length_cons, hlen]⟩
    rw [hinput, step_input hu, List.drop_tail]

/-- Settles O52, by `step_total` and induction on the number of steps. -/
theorem stepIsTotal : Obligations.StepIsTotal := by
  unfold Obligations.StepIsTotal
  refine ⟨fun s => ?_, runFor_total⟩
  obtain ⟨t, ht, -⟩ := step_total s
  exact ⟨t, ht⟩

/-! Dispatches of runs. -/

theorem dispatchesFor_succ {s t : State} (k : Nat) (h : step s = .next t) :
    dispatchesFor (k + 1) s = t.out.dispatch.toList ++ dispatchesFor k t := by
  rw [dispatchesFor, outputsFor_succ k h, List.filterMap_cons]
  cases t.out.dispatch <;> rfl

theorem dispatchesFor_add {s t : State} (m n : Nat) (h : runFor m s = .next t) :
    dispatchesFor (m + n) s = dispatchesFor m s ++ dispatchesFor n t := by
  rw [dispatchesFor, outputsFor_add m n h, List.filterMap_append]
  rfl

/-! A step reads of the events to come only the first. -/

/-- The state with other events to come. -/
def withInput (l : List PortSample) (s : State) : State := { s with input := l }

/-- The outcome with other events to come. -/
def outcomeWithInput (l : List PortSample) : StepOutcome → StepOutcome
  | .next s => .next (withInput l s)
  | .fault f => .fault f
  | .refused r => .refused r

theorem exec_withInput (i : Instr) (l : List PortSample) (s : State) :
    exec i (withInput l s) = outcomeWithInput l (exec i s) := by
  cases i with
  | byteIdle b =>
    rw [exec_byteIdle, exec_byteIdle]
    rcases execByteIdle_cases b s with ⟨hw, hx⟩ | ⟨hw, hc, hx⟩ | ⟨hv, hx⟩ <;> rw [hx]
    · exact execByteIdle_zeroType hw
    · exact execByteIdle_badCrc hw hc
    · exact execByteIdle_accept hv
  | byteCollecting b =>
    rw [exec_byteCollecting, exec_byteCollecting]
    rcases execByteCollecting_cases b s with ⟨ho, hx⟩ | ⟨ho, hn, hx⟩ | ⟨ho, hn, hx⟩ <;> rw [hx]
    · exact execByteCollecting_abort ho
    · exact execByteCollecting_done ho hn
    · exact execByteCollecting_collect ho hn
  | _ => rfl

theorem step_withInput_cons {p : PortSample} {s t : State} (h : step (offer p s) = .next t) (l : List PortSample) :
    step (withInput (p :: l) s) = .next (withInput l t) := by
  rw [step_of_input_cons (s := withInput (p :: l) s) rfl]
  exact (exec_withInput _ l s).trans (congrArg (outcomeWithInput l) h)

/-- Over the events `x` a run does the same whatever comes after them. -/
theorem runFor_withInput_append (x : List PortSample) (s : State) :
    ∃ (t : State) (o : List Output), ∀ z, runFor x.length (withInput (x ++ z) s) = .next (withInput z t) ∧
      outputsFor x.length (withInput (x ++ z) s) = o := by
  induction x generalizing s with
  | nil => exact ⟨s, [], fun _ => ⟨rfl, rfl⟩⟩
  | cons p x ih =>
    obtain ⟨u, hu, -⟩ := step_total (offer p s)
    obtain ⟨t, o, ht⟩ := ih u
    refine ⟨t, u.out :: o, fun z => ?_⟩
    have hstep := step_withInput_cons hu (x ++ z)
    obtain ⟨hrun, hout⟩ := ht z
    exact ⟨(runFor_succ _ hstep).trans hrun, (outputsFor_succ _ hstep).trans (congrArg (List.cons u.out) hout)⟩

/-! No step reads the output before it, so it matters to a run of no step only. -/

theorem step_emit (log : LogCode) (d : Option DispatchRecord) (s : State) : step (emit log d s) = step s :=
  step_ignores_out s ⟨log, d⟩

theorem architecturalEnd_runFor_emit (k : Nat) (log : LogCode) (d : Option DispatchRecord) (s : State) :
    architecturalEnd (runFor k (emit log d s)) = architecturalEnd (runFor k s) := by
  cases k with
  | zero => rfl
  | succ k =>
    obtain ⟨t, ht, -⟩ := step_total s
    rw [runFor_succ k ht, runFor_succ k ((step_emit log d s).trans ht)]

theorem dispatchesFor_emit (k : Nat) (log : LogCode) (d : Option DispatchRecord) (s : State) :
    dispatchesFor k (emit log d s) = dispatchesFor k s := by
  cases k with
  | zero => rfl
  | succ k =>
    obtain ⟨t, ht, -⟩ := step_total s
    rw [dispatchesFor_succ k ht, dispatchesFor_succ k ((step_emit log d s).trans ht)]

/-- An event without a byte only takes itself out of the events to come (R81, R82). -/
theorem step_withInput_noByte {q : PortSample} (hq : samplesNoByte q = true) (y : List PortSample) (s : State) :
    step (withInput (q :: y) s) = .next (emit .noStep none (withInput y s)) :=
  step_noByte (s := withInput (q :: y) s) hq

/-- Settles O22: the two runs agree over `x`; then `q` changes the output alone, which the run of `y` does not read. -/
theorem eventsWithoutByteCanBeRemoved : Obligations.EventsWithoutByteCanBeRemoved := by
  unfold Obligations.EventsWithoutByteCanBeRemoved
  intro s x y q hq
  obtain ⟨t, o, ht⟩ := runFor_withInput_append x s
  obtain ⟨hrunq, houtq⟩ := ht (q :: y)
  obtain ⟨hrun, hout⟩ := ht y
  have hstep := step_withInput_noByte hq y t
  change architecturalEnd (runFor _ (withInput (x ++ q :: y) s)) = architecturalEnd (runFor _ (withInput (x ++ y) s)) ∧
    dispatchesFor _ (withInput (x ++ q :: y) s) = dispatchesFor _ (withInput (x ++ y) s)
  rw [Nat.add_assoc, Nat.add_comm 1]
  constructor
  · rw [runFor_add _ _ hrunq, runFor_succ _ hstep, architecturalEnd_runFor_emit, runFor_add _ _ hrun]
  · have hx : dispatchesFor x.length (withInput (x ++ q :: y) s) = dispatchesFor x.length (withInput (x ++ y) s) := by
      rw [dispatchesFor, houtq, ← hout, ← dispatchesFor]
    rw [dispatchesFor_add _ _ hrunq, dispatchesFor_succ _ hstep, dispatchesFor_emit, dispatchesFor_add _ _ hrun, hx]
    rfl

/-! Dispatches are two bytes apart (R68, R96). -/

/-- How many of the next `k` events are bytes. -/
def bytesAhead (k : Nat) (s : State) : Nat := ((s.input.take k).filter samplesByte).length

theorem bytesAhead_succ {s t : State} (k : Nat) (h : step s = .next t) :
    bytesAhead (k + 1) s = (samplesByte (nextSample s)).toNat + bytesAhead k t := by
  rw [bytesAhead, bytesAhead, step_input h]
  cases hin : s.input with
  | nil =>
    have hp : nextSample s = noDataSample := by simp [nextSample, hin]
    rw [hp]
    simp [show samplesByte noDataSample = false by decide]
  | cons p l =>
    have hp : nextSample s = p := by simp [nextSample, hin]
    rw [hp, List.take_succ_cons, List.filter_cons, List.tail_cons]
    cases samplesByte p <;> simp [Nat.add_comm]

theorem step_no_dispatch_of_not_byte {s t : State} (h : step s = .next t) (hb : samplesByte (nextSample s) = false) :
    t.out.dispatch = none := by
  refine Option.eq_none_iff_forall_ne_some.2 fun d hd => ?_
  obtain ⟨b, hp, -⟩ := step_of_dispatch h hd
  rw [hp.byte_eq] at hb
  cases hb

theorem step_no_dispatch_of_idle {s t : State} (h : step s = .next t) (hs : s.st = .idle) : t.out.dispatch = none := by
  refine Option.eq_none_iff_forall_ne_some.2 fun d hd => ?_
  obtain ⟨b, -, hc, -⟩ := step_of_dispatch h hd
  rw [hs] at hc
  cases hc

theorem dispatchesFor_of_no_byte (k : Nat) (s : State) (hb : bytesAhead k s = 0) : dispatchesFor k s = [] := by
  induction k generalizing s with
  | zero => rfl
  | succ k ih =>
    obtain ⟨t, ht, -⟩ := step_total s
    rw [bytesAhead_succ k ht, Nat.add_eq_zero_iff, Bool.toNat_eq_zero] at hb
    rw [dispatchesFor_succ k ht, step_no_dispatch_of_not_byte ht hb.1, ih t hb.2]
    rfl

/-- From `IDLE` the first byte dispatches nothing, whether or not it is accepted, and there is no second. -/
theorem dispatchesFor_of_idle (k : Nat) (s : State) (hs : s.st = .idle) (hb : bytesAhead k s ≤ 1) :
    dispatchesFor k s = [] := by
  induction k generalizing s with
  | zero => rfl
  | succ k ih =>
    obtain ⟨t, ht, -⟩ := step_total s
    rw [bytesAhead_succ k ht] at hb
    rw [dispatchesFor_succ k ht, step_no_dispatch_of_idle ht hs]
    cases hp : samplesByte (nextSample s) with
    | false =>
      have hst : t.st = .idle := step_st_of_idle ht hs (by rw [step_log_of_not_byte ht hp]; nofun)
      rw [hp, Bool.toNat_false, Nat.zero_add] at hb
      exact ih t hst hb
    | true =>
      rw [hp, Bool.toNat_true] at hb
      exact dispatchesFor_of_no_byte k t (by omega)

/-- R73: the completion returns to `IDLE`. -/
theorem step_st_of_dispatch {s t : State} (h : step s = .next t) (hd : t.out.dispatch ≠ none) : t.st = .idle := by
  cases step_cases h with
  | done b hp hs ho hn ht => subst t; rfl
  | _ => subst t; exact absurd rfl hd

/-- Settles O48: a dispatch leaves the block in `IDLE`, and from there one byte dispatches nothing. -/
theorem dispatchesAreAtLeastTwoBytesApart : Obligations.DispatchesAreAtLeastTwoBytesApart := by
  unfold Obligations.DispatchesAreAtLeastTwoBytesApart
  exact fun s t h hd k hb => dispatchesFor_of_idle k t (step_st_of_dispatch h hd) hb

/-! The first bytes after reset (R67). -/

theorem joinBytes_zero : joinBytes 0 0 = 0#16 := by decide

/-- Two zero bytes about to become the two oldest make the type of the shifted window 0. -/
theorem step_byte_zeroType {s : State} {b : Byte} {rest : List PortSample} (hs : s.st = .idle)
    (hin : s.input = byteSample b :: rest) (h1 : s.win.w1 = 0) (h2 : s.win.w2 = 0) :
    step s = .next (emit .rejZeroType none (setWindow (shiftIn s.win b) (consume s))) := by
  rw [step_byte_idle (samplesByte_head hin) hs]
  refine execByteIdle_zeroType (s := consume s) ?_
  rw [consume_win, typeField, shiftIn, h1, h2, joinBytes_zero]

/-- Settles O55: the zeros of the reset window are the type of the first four shifted windows. -/
theorem firstFourBytesAfterResetAreRejected : Obligations.FirstFourBytesAfterResetAreRejected := by
  unfold Obligations.FirstFourBytesAfterResetAreRejected
  intro m b0 b1 b2 b3 rest
  rw [outputsFor_succ 3 (step_byte_zeroType rfl rfl rfl rfl), outputsFor_succ 2 (step_byte_zeroType rfl rfl rfl rfl),
    outputsFor_succ 1 (step_byte_zeroType rfl rfl rfl rfl), outputsFor_succ 0 (step_byte_zeroType rfl rfl rfl rfl)]
  rfl

end Sys2Proof.Machine
end

section
/-! PROOFS. Whole frames (42_collecting_dispatch.md section 2, 41_idle_header_recognition.md section 3, 95_test_vectors.md Part 4): a
frame in progress and the run that delivers it, the search that rejects every window before a header, and the statements O56 to
O58. -/

namespace Sys2Proof.Machine

/-! Collecting: the payload bytes `q` are in, the bytes `p` come next. -/

/-- A frame of the payload `q ++ p` within the capacity, of which `q` has been collected and `p` is next to come. -/
structure FrameInProgress (s : State) (q p : List Byte) (rest : List PortSample) : Prop where
  collecting : s.st = .collecting
  count : s.cnt.toNat = q.length
  cells : payloadPrefix s.pbuf q.length = q
  size : s.hdrSize.toNat = q.length + p.length
  fits : s.hdrSize.toNat ≤ s.maxPayload.toNat
  input : s.input = p.map byteSample ++ rest

/-- The frame of `s` has been delivered after `k` steps, in the state `t`, with the given payload. -/
structure FrameDelivered (s : State) (payload : List Byte) (k : Nat) (rest : List PortSample) (t : State) : Prop where
  run : runFor k s = .next t
  idle : t.st = .idle
  win : t.win = s.win
  count : t.cnt = s.hdrSize
  input : t.input = rest
  out : t.out = ⟨.frameDone, some ⟨s.hdrType, s.hdrSize, payload⟩⟩
  outputs : outputsFor k s = List.replicate (k - 1) ⟨.collect, none⟩ ++ [t.out]

section
variable {s : State} {q p : List Byte} {b : Byte} {rest : List PortSample}

theorem FrameInProgress.cnt_lt_maxPayload (hf : FrameInProgress s q (b :: p) rest) :
    s.cnt.toNat < s.maxPayload.toNat := by
  have hsize := hf.size
  have hfits := hf.fits
  rw [List.length_cons] at hsize
  rw [hf.count]
  omega

theorem FrameInProgress.cnt_succ (hf : FrameInProgress s q (b :: p) rest) : (s.cnt + 1#16).toNat = q.length + 1 := by
  rw [cnt_succ_toNat hf.cnt_lt_maxPayload, hf.count]

theorem FrameInProgress.cells_appendByte (hf : FrameInProgress s q (b :: p) rest) :
    payloadPrefix (appendByte b s).pbuf (q.length + 1) = q ++ [b] := by
  rw [payloadPrefix_succ, read_appendByte b hf.cnt_lt_maxPayload, if_pos hf.count.symm, appendByte_pbuf,
    storeCell_inside _ _ hf.cnt_lt_maxPayload, payloadPrefix_write _ _ _ _ (Nat.le_of_eq hf.count.symm), hf.cells]

/-- A byte that is not the last of the frame (R70). -/
theorem FrameInProgress.step_more {c : Byte} (hf : FrameInProgress s q (b :: c :: p) rest) :
    ∃ u, step s = .next u ∧ u.out = ⟨.collect, none⟩ ∧ u.win = s.win ∧ u.hdrType = s.hdrType ∧ u.hdrSize = s.hdrSize ∧
      FrameInProgress u (q ++ [b]) (c :: p) rest := by
  have hsize := hf.size
  simp only [List.length_cons] at hsize
  have hstep : step s = .next (emit .collect none (appendByte b (consume s))) := by
    rw [step_byte_collecting (samplesByte_head hf.input) hf.collecting]
    refine execByteCollecting_collect hf.fits ?_
    rw [consume_cnt, consume_hdrSize, hf.cnt_succ]
    omega
  refine ⟨_, hstep, rfl, rfl, rfl, rfl, ?_⟩
  exact
    { collecting := hf.collecting
      count := by rw [List.length_append]; exact hf.cnt_succ
      cells := by rw [List.length_append]; exact hf.cells_appendByte
      size := by rw [List.length_append]; exact hsize.trans (by simp only [List.length_cons, List.length_nil]; omega)
      fits := hf.fits
      input := by rw [emit_input, appendByte_input, consume_input, hf.input]; rfl }

/-- The last byte of the frame (R73). -/
theorem FrameInProgress.step_last (hf : FrameInProgress s q [b] rest) :
    ∃ t, FrameDelivered s (q ++ [b]) 1 rest t := by
  have hsize : s.hdrSize.toNat = q.length + 1 := hf.size
  have hstep : step s = .next (deliverFrame (appendByte b (consume s))) := by
    rw [step_byte_collecting (samplesByte_head hf.input) hf.collecting]
    refine execByteCollecting_done hf.fits ?_
    rw [consume_cnt, consume_hdrSize, hf.cnt_succ, hsize]
  have hheld : heldFrame (appendByte b (consume s)) = ⟨s.hdrType, s.hdrSize, q ++ [b]⟩ := by
    rw [← hf.cells_appendByte, ← hsize]
    rfl
  refine ⟨deliverFrame (appendByte b (consume s)), ?_⟩
  exact
    { run := runFor_succ 0 hstep
      idle := rfl
      win := rfl
      count := BitVec.eq_of_toNat_eq (hf.cnt_succ.trans hsize.symm)
      input := by rw [deliverFrame_input, appendByte_input, consume_input, hf.input]; rfl
      out := by rw [deliverFrame_out, hheld]
      outputs := outputsFor_succ 0 hstep }

end

/-- One more byte before a delivery. -/
theorem FrameDelivered.after_step {s u t : State} {payload : List Byte} {k : Nat} {rest : List PortSample}
    (h : step s = .next u) (hout : u.out = ⟨.collect, none⟩) (hwin : u.win = s.win) (htype : u.hdrType = s.hdrType)
    (hsize : u.hdrSize = s.hdrSize) (hd : FrameDelivered u payload (k + 1) rest t) :
    FrameDelivered s payload (k + 2) rest t where
  run := (runFor_succ _ h).trans hd.run
  idle := hd.idle
  win := hd.win.trans hwin
  count := hd.count.trans hsize
  input := hd.input
  out := by rw [hd.out, htype, hsize]
  outputs := by rw [outputsFor_succ _ h, hd.outputs, hout]; rfl

/-- A frame with bytes to come is delivered by the last of them. -/
theorem FrameInProgress.delivered {s : State} {q p : List Byte} {b : Byte} {rest : List PortSample}
    (hf : FrameInProgress s q (b :: p) rest) : ∃ t, FrameDelivered s (q ++ b :: p) (p.length + 1) rest t := by
  induction p generalizing s q b with
  | nil => exact hf.step_last
  | cons c p ih =>
    obtain ⟨u, hstep, hout, hwin, htype, hsize, hu⟩ := hf.step_more
    obtain ⟨t, ht⟩ := ih hu
    rw [List.append_assoc] at ht
    exact ⟨t, ht.after_step hstep hout hwin htype hsize⟩

/-- A frame none of whose bytes has come is delivered whole. -/
theorem FrameInProgress.delivered_from_start {s : State} {p : List Byte} {rest : List PortSample} (h1 : 1 ≤ p.length)
    (hf : FrameInProgress s [] p rest) : ∃ t, FrameDelivered s p p.length rest t := by
  cases p with
  | nil => cases h1
  | cons b p => exact hf.delivered

/-- Settles O56: no payload byte has come yet, and all of them are next. -/
theorem declaredPayloadIsDeliveredWhole : Obligations.DeclaredPayloadIsDeliveredWhole := by
  unfold Obligations.DeclaredPayloadIsDeliveredWhole
  intro s p rest hs hcnt hsize h1 hfits hin
  have hf : FrameInProgress s [] p rest :=
    { collecting := hs
      count := by rw [hcnt]; rfl
      cells := rfl
      size := by rw [hsize, List.length_nil, Nat.zero_add]
      fits := hsize ▸ hfits
      input := hin }
  obtain ⟨t, ht⟩ := hf.delivered_from_start h1
  exact ⟨t, ht.run, ht.idle, ht.win, ht.input, by rw [ht.outputs, ht.out]⟩

theorem FrameDelivered.dispatches {s t : State} {payload : List Byte} {k : Nat} {rest : List PortSample}
    (hd : FrameDelivered s payload k rest t) : dispatchesFor k s = [⟨s.hdrType, s.hdrSize, payload⟩] := by
  rw [dispatchesFor, hd.outputs, hd.out, List.filterMap_append,
    List.filterMap_eq_nil_iff.2 fun o ho => by rw [(List.mem_replicate.1 ho).2]]
  rfl

/-! Searching: no window that the bytes pass through is valid. -/

theorem NoFalseHeader.head {w : Window} {b : Byte} {l : List Byte} (h : NoFalseHeader w (b :: l)) :
    hdrValid (shiftIn w b) = false := h 1 le_rfl (Nat.le_add_left 1 l.length)

theorem NoFalseHeader.tail {w : Window} {b : Byte} {l : List Byte} (h : NoFalseHeader w (b :: l)) :
    NoFalseHeader (shiftIn w b) l :=
  fun k _ hk => h (k + 1) (Nat.le_add_left 1 k) (Nat.succ_le_succ hk)

/-- An Idle byte that completes no valid header keeps the search going. -/
theorem step_byte_rejected {s t : State} {b : Byte} (h : step s = .next t) (hp : SamplesByte (nextSample s) b)
    (hs : s.st = .idle) (hv : hdrValid (shiftIn s.win b) = false) : t.st = .idle := by
  refine step_st_of_idle h hs fun ha => ?_
  obtain ⟨-, -, hv'⟩ := (step_log_iff h .hdrAccept).1 ha
  rw [nextWindow, hp.data_eq, hv] at hv'
  cases hv'

/-- The search goes through all the bytes, and dispatches nothing (R69). -/
theorem search_run {s : State} {l : List Byte} {rest : List PortSample} (hs : s.st = .idle)
    (hin : s.input = l.map byteSample ++ rest) (hno : NoFalseHeader s.win l) :
    ∃ t, runFor l.length s = .next t ∧ t.st = .idle ∧ t.win = windowAfter s.win l ∧ t.maxPayload = s.maxPayload ∧
      t.input = rest ∧ dispatchesFor l.length s = [] := by
  induction l generalizing s with
  | nil => exact ⟨s, rfl, hs, rfl, rfl, hin, rfl⟩
  | cons b l ih =>
    obtain ⟨u, hu, -⟩ := step_total s
    have hp : SamplesByte (nextSample s) b := samplesByte_head hin
    have hwin : u.win = shiftIn s.win b := step_win_of_byte_idle hu hp hs
    have huin : u.input = l.map byteSample ++ rest := by rw [step_input hu, hin]; rfl
    obtain ⟨t, hrun, hst, htwin, hmax, htin, hnone⟩ :=
      ih (step_byte_rejected hu hp hs hno.head) huin (hwin ▸ hno.tail)
    refine ⟨t, (runFor_succ _ hu).trans hrun, hst, by rw [htwin, hwin]; rfl, hmax.trans (step_maxPayload hu), htin, ?_⟩
    rw [List.length_cons, dispatchesFor_succ _ hu, step_no_dispatch_of_idle hu hs, hnone]
    rfl

/-- Six bytes fill the window, whatever was in it. -/
theorem shiftIn_windowAfter_header (v w : Window) (g : List Byte) :
    shiftIn (windowAfter v (g ++ (windowBytes w).take 5)) w.w5 = w := by
  rw [windowAfter, List.foldl_append]
  rfl

theorem windowBytes_take_five (w : Window) : windowBytes w = (windowBytes w).take 5 ++ [w.w5] := rfl

/-- After the bytes `g` a valid header is accepted at its sixth byte, provided no earlier window is valid. -/
theorem header_run {s : State} {g : List Byte} {w : Window} {rest : List PortSample} (hs : s.st = .idle)
    (hv : hdrValid w = true) (hin : s.input = (g ++ windowBytes w).map byteSample ++ rest)
    (hno : NoFalseHeader s.win (g ++ (windowBytes w).take 5)) :
    ∃ a, runFor (g.length + 6) s = .next a ∧ a.out = ⟨.hdrAccept, none⟩ ∧ a.st = .collecting ∧ a.hdrType = typeField w ∧
      a.hdrSize = sizeField w ∧ a.cnt = 0#16 ∧ a.maxPayload = s.maxPayload ∧ a.input = rest ∧
      dispatchesFor (g.length + 6) s = [] := by
  have hin' : s.input = (g ++ (windowBytes w).take 5).map byteSample ++ (byteSample w.w5 :: rest) := by
    rw [hin, windowBytes_take_five, ← List.append_assoc, List.map_append, List.append_assoc]
    rfl
  obtain ⟨u, hrun, hst, hwin, hmax, huin, hnone⟩ := search_run hs hin' hno
  have hlen : (g ++ (windowBytes w).take 5).length = g.length + 5 := List.length_append
  have hshift : shiftIn u.win w.w5 = w := by rw [hwin, shiftIn_windowAfter_header]
  have hstep : step u = .next (emit .hdrAccept none (retainHeader (typeField w) (sizeField w) (setWindow w (consume u)))) := by
    rw [step_byte_idle (samplesByte_head huin) hst, execByteIdle_accept (by rw [consume_win, hshift]; exact hv),
      consume_win, hshift]
  rw [hlen] at hrun hnone
  refine ⟨_, (runFor_add (g.length + 5) 1 hrun).trans (runFor_succ 0 hstep), rfl, rfl, rfl, rfl, rfl, hmax, ?_, ?_⟩
  · rw [emit_input, retainHeader_input, setWindow_input, consume_input, huin, List.tail_cons]
  · rw [dispatchesFor_add (g.length + 5) 1 hrun, hnone, dispatchesFor_succ 0 hstep]
    rfl

/-- A whole frame after the bytes `g`: accepted in the state `a`, delivered in the state `e`, with no other dispatch. -/
theorem frame_run {s : State} {g p : List Byte} {t : U16} {rest : List PortSample} (hs : s.st = .idle) (ht : t ≠ 0#16)
    (h1 : 1 ≤ p.length) (hfits : p.length ≤ s.maxPayload.toNat)
    (hin : s.input = (g ++ windowBytes (builtHeader t (BitVec.ofNat 16 p.length)) ++ p).map byteSample ++ rest)
    (hno : NoFalseHeader s.win (g ++ (windowBytes (builtHeader t (BitVec.ofNat 16 p.length))).take 5)) :
    ∃ a e, runFor (g.length + 6) s = .next a ∧ a.out = ⟨.hdrAccept, none⟩ ∧ a.st = .collecting ∧ a.hdrType = t ∧
      a.hdrSize = BitVec.ofNat 16 p.length ∧ runFor (g.length + 6 + p.length) s = .next e ∧
      FrameDelivered a p p.length rest e ∧
      dispatchesFor (g.length + 6 + p.length) s = [⟨t, BitVec.ofNat 16 p.length, p⟩] := by
  have hsize : (BitVec.ofNat 16 p.length).toNat = p.length :=
    Nat.mod_eq_of_lt (Nat.lt_of_le_of_lt hfits s.maxPayload.isLt)
  rw [List.map_append, List.append_assoc] at hin
  obtain ⟨a, hrun, hout, hst, htype, hsz, hcnt, hmax, hain, hnone⟩ :=
    header_run hs (hdrValid_builtHeader ht _) hin hno
  rw [typeField_builtHeader] at htype
  rw [sizeField_builtHeader] at hsz
  have hf : FrameInProgress a [] p rest :=
    { collecting := hst
      count := by rw [hcnt]; rfl
      cells := rfl
      size := by rw [hsz, hsize, List.length_nil, Nat.zero_add]
      fits := by rw [hsz, hsize, hmax]; exact hfits
      input := hain }
  obtain ⟨e, he⟩ := hf.delivered_from_start h1
  refine ⟨a, e, hrun, hout, hst, htype, hsz, (runFor_add _ _ hrun).trans he.run, he, ?_⟩
  rw [dispatchesFor_add _ _ hrun, hnone, he.dispatches, htype, hsz, List.nil_append]

/-- Settles O57, by `frame_run`. -/
theorem frameIsFoundAfterAnyGarbage : Obligations.FrameIsFoundAfterAnyGarbage := by
  unfold Obligations.FrameIsFoundAfterAnyGarbage
  intro s g p t rest hs ht h1 hfits hin hno
  obtain ⟨a, e, hrun, hout, hst, htype, hsize, herun, he, hdisp⟩ := frame_run hs ht h1 hfits hin hno
  exact ⟨⟨a, hrun, hout, hst, htype, hsize⟩, ⟨e, herun, he.idle, he.input, by rw [he.out, htype, hsize]⟩, hdisp⟩

theorem hdrValid_of_zeroType {w : Window} (ht : typeField w = 0#16) : hdrValid w = false :=
  Bool.eq_false_iff.2 fun hv => ((hdrValid_iff w).1 hv).1 ht

/-- After reset the first four windows have type 0 (R67), so of the first five only the fifth can be valid. -/
theorem noFalseHeader_zeroWindow {w : Window} (h5 : hdrValid ⟨0x00, w.w0, w.w1, w.w2, w.w3, w.w4⟩ = false) :
    NoFalseHeader zeroWindow ([] ++ (windowBytes w).take 5) := by
  intro k hk1 hk5
  change k ≤ 5 at hk5
  interval_cases k
  · exact hdrValid_of_zeroType joinBytes_zero
  · exact hdrValid_of_zeroType joinBytes_zero
  · exact hdrValid_of_zeroType joinBytes_zero
  · exact hdrValid_of_zeroType joinBytes_zero
  · exact h5

/-- Settles O58: `frame_run` from the reset state, with nothing before the header. -/
theorem firstFrameAfterResetIsDispatched : Obligations.FirstFrameAfterResetIsDispatched := by
  unfold Obligations.FirstFrameAfterResetIsDispatched
  intro m t p rest ht h1 hfits h5
  obtain ⟨a, e, -, -, -, htype, hsize, herun, he, hdisp⟩ :=
    frame_run (s := { State.reset with
      maxPayload := m
      input := (windowBytes (builtHeader t (BitVec.ofNat 16 p.length)) ++ p).map byteSample ++ rest })
      rfl ht h1 hfits rfl (noFalseHeader_zeroWindow h5)
  rw [List.length_nil, Nat.zero_add] at herun hdisp
  refine ⟨hdisp, e, herun, by rw [he.out, htype, hsize], he.idle, ?_⟩
  rw [he.count, hsize]
  exact Nat.mod_eq_of_lt (Nat.lt_of_le_of_lt hfits m.isLt)

end Sys2Proof.Machine
end
